-- ==== Sys2Proof/Word.lean ====
section
/-! DEFINITION. The word types of the command and response ports, and the spec's plainest notation on naturals
(00_scope.md R8, R9; 30_encoding.md R60, R62). -/
namespace Sys2Proof

/-- A 32-bit operand or response word (`A`, `B`, `Y0`, `Y1`, `Y2`: 30_encoding.md R60, R62). -/
abbrev Word := BitVec 32

/-- An 8-bit value: an opcode, a fault code, a result-block byte. -/
abbrev Byte := BitVec 8

/-- `v[hi:lo]` of 00_scope.md R8: bits hi down to lo of v, as a natural number. -/
def bits (v hi lo : Nat) : Nat := v / 2 ^ lo % 2 ^ (hi + 1 - lo)

end Sys2Proof
end

