-- ==== Sys2Proof/Syntax.lean ====
section
/-! DEFINITION. The commands of TCRD-CMD v1: the one format CMD8 (30_encoding.md R60) and its eleven rows
(30_encoding.md R63, spec/opcode_table.json). -/
namespace Sys2Proof

/-- The format `CMD8` as the host presents it: an opcode and two operand words, all together (30_encoding.md R60). -/
structure Command where
  cmd : Byte
  a : Word
  b : Word
  deriving DecidableEq, Repr

/-- One constructor per row of the opcode map (30_encoding.md R63). Each carries both operand words whole, because a
must-be-0 bit that is 1 is no other command: it makes the command itself raise OPERAND_RANGE (30_encoding.md R64, R65).
`Instr.wellFormed` (WellFormed.lean) says which operands lie in their fields. -/
inductive Instr where
  /-- `MACRO_PERIOD vcsel, fosc` (40_timing_converter.md R101). -/
  | macroPeriod (a b : Word)
  /-- `MCLK_TO_US mclks, mp` (40_timing_converter.md R103). -/
  | mclkToUs (a b : Word)
  /-- `US_TO_MCLK us, mp` (40_timing_converter.md R104). -/
  | usToMclk (a b : Word)
  /-- `ENC_TIMEOUT mclks` (40_timing_converter.md R105). -/
  | encTimeout (a b : Word)
  /-- `DEC_TIMEOUT reg` (40_timing_converter.md R106). -/
  | decTimeout (a b : Word)
  /-- `RD_START` (41_result_decoder.md R120). -/
  | rdStart (a b : Word)
  /-- `RD_PUSH byte` (41_result_decoder.md R121). -/
  | rdPush (a b : Word)
  /-- `RD_DECODE` (41_result_decoder.md R122). -/
  | rdDecode (a b : Word)
  /-- `RD_MAP_STATUS raw, sc` (41_result_decoder.md R125). -/
  | rdMapStatus (a b : Word)
  /-- `RD_GAIN raw_mm` (41_result_decoder.md R126). -/
  | rdGain (a b : Word)
  /-- `STATUS` (42_status.md R150). -/
  | status (a b : Word)
  deriving DecidableEq, Repr

end Sys2Proof
end

