-- ==== Sys2Proof/Decode.lean ====
section
/-! DEFINITION. Decoding a command by its opcode (30_encoding.md R61, R63, R64), the encoder, and the command as one
bit string numbered as spec/opcode_table.json numbers it. -/
namespace Sys2Proof

/-- Why the decoder refuses a command. -/
inductive DecodeError where
  /-- The opcode is not in the opcode map (30_encoding.md R64); the block answers it with ILLEGAL_OP. -/
  | reservedOpcode (cmd : Byte)
  deriving DecidableEq, Repr

/-- `CMD[7:4]`, the unit (30_encoding.md R61). -/
def Command.unit (c : Command) : BitVec 4 := c.cmd.extractLsb' 4 4

/-- `CMD[3:0]`, the function within the unit (30_encoding.md R61). -/
def Command.func (c : Command) : BitVec 4 := c.cmd.extractLsb' 0 4

/-- The opcode map of 30_encoding.md R63; every other opcode is reserved and refused by name (R64). The operand words
are taken whole (R66). -/
def decode (c : Command) : Except DecodeError Instr :=
  match c.cmd with
  | 0x01 => .ok (.macroPeriod c.a c.b)
  | 0x02 => .ok (.mclkToUs c.a c.b)
  | 0x03 => .ok (.usToMclk c.a c.b)
  | 0x04 => .ok (.encTimeout c.a c.b)
  | 0x05 => .ok (.decTimeout c.a c.b)
  | 0x10 => .ok (.rdStart c.a c.b)
  | 0x11 => .ok (.rdPush c.a c.b)
  | 0x12 => .ok (.rdDecode c.a c.b)
  | 0x13 => .ok (.rdMapStatus c.a c.b)
  | 0x14 => .ok (.rdGain c.a c.b)
  | 0x20 => .ok (.status c.a c.b)
  | cmd => .error (.reservedOpcode cmd)

/-- The three parts of the command the host presents for an instruction, from the same map (30_encoding.md R60, R63). -/
def encode : Instr → Command
  | .macroPeriod a b => ⟨0x01, a, b⟩
  | .mclkToUs a b => ⟨0x02, a, b⟩
  | .usToMclk a b => ⟨0x03, a, b⟩
  | .encTimeout a b => ⟨0x04, a, b⟩
  | .decTimeout a b => ⟨0x05, a, b⟩
  | .rdStart a b => ⟨0x10, a, b⟩
  | .rdPush a b => ⟨0x11, a, b⟩
  | .rdDecode a b => ⟨0x12, a, b⟩
  | .rdMapStatus a b => ⟨0x13, a, b⟩
  | .rdGain a b => ⟨0x14, a, b⟩
  | .status a b => ⟨0x20, a, b⟩

/-- A command as one 72-bit string: CMD in bits 7:0 (spec/opcode_table.json), then A in 39:8 and B in 71:40.
DESIGN CHOICE (log 8): the spec fixes no order beyond the opcode byte, since the three parts are presented together. -/
def Command.toBits (c : Command) : BitVec 72 := c.b ++ c.a ++ c.cmd

/-- The command that a 72-bit string lays out (log 8). -/
def Command.ofBits (w : BitVec 72) : Command :=
  ⟨w.extractLsb' 0 8, w.extractLsb' 8 32, w.extractLsb' 40 32⟩

/-- The command whose first `nbits` bits are those of `w` and whose further bits are 0 (log 8). -/
def Command.ofTableWord (nbits w : Nat) : Command := Command.ofBits (BitVec.ofNat 72 (w % 2 ^ nbits))

/-- An instruction's 72-bit string as a number (log 8). -/
def encodeTableWord (i : Instr) : Nat := (encode i).toBits.toNat

/-- The instruction the decoder reads from a command given as a number of `nbits` bits, or none where it refuses. -/
def decodeTableWord (nbits w : Nat) : Option Instr := (decode (Command.ofTableWord nbits w)).toOption

end Sys2Proof
end

