-- ==== Sys2Proof/Machine/State.lean ====
section
/-! DEFINITION. The state of one TCRD instance (10_state.md R20): CAP, CURSOR, FLT, and beside them the model's own
two ports, the host's inputs not yet taken and the latest response. -/
namespace Sys2Proof.Machine

/-- A 16-bit field of CAP, filled by two one-byte writes (20_memory.md R44): `hi` is bits 15:8, from the lower offset,
`lo` bits 7:0 (20_memory.md R43). A byte is none until a push writes it after reset (10_state.md R24, R29; log 5). -/
structure Field16 where
  hi : Option Byte
  lo : Option Byte
  deriving DecidableEq, Repr

/-- The capture register CAP: the six fields of 10_state.md R23. The spec gives the fields no value at reset and says
a model must not give them one before they are written (10_state.md R24), so a byte is an Option as the spec's own
state. Whether a field holds a value NOW also depends on CURSOR: `State.capValue` (Operands.lean; log 5). -/
structure Cap where
  rangeStatus : Option Byte
  streamCount : Option Byte
  effSpads : Field16
  ambient : Field16
  finalRange : Field16
  peakRate : Field16
  deriving DecidableEq, Repr

/-- The one response of a command: the fault code, the overflow bit and three result words (30_encoding.md R62). -/
structure Response where
  code : Byte
  ovf : Bool
  y0 : Word
  y1 : Word
  y2 : Word
  deriving DecidableEq, Repr

/-- What the host gives the block, one at a time and in order: a command (30_encoding.md R60) or an asserted reset,
which takes effect between commands (70_reset_and_hazards.md R180, R181; log 4). -/
inductive HostInput where
  | command (c : Command)
  | reset
  deriving DecidableEq, Repr

/-- The state of one instance. `cap`, `cursor` and `flt` are all the architectural state (10_state.md R20);
`port` and `response` are the model's own (log 1, log 2): by 10_state.md R22 operands and responses are no state of
the block. -/
structure State where
  /-- `CAP` (10_state.md R23). -/
  cap : Cap
  /-- `CURSOR`, SR1: 5 bits, legal values 0 to 17 (10_state.md R25). -/
  cursor : BitVec 5
  /-- `FLT`, SR0: 8 bits, the first fault since reset, legal values 0x00 to 0x05 (10_state.md R26). -/
  flt : Byte
  /-- The host's inputs not yet taken, oldest first. DESIGN CHOICE (log 1). -/
  port : List HostInput
  /-- The response to the most recent command since reset, if any. DESIGN CHOICE (log 2). No command reads it. -/
  response : Option Response
  deriving DecidableEq, Repr

/-- Why the model stops. The block itself never does: every fault of 60_exceptions.md R160 is a next state (R162). -/
inductive Fault where
  /-- A write at a result-block offset above 16, which does not exist (20_memory.md R40). Raised by RD_PUSH in states
  with CURSOR 18 to 31 only, and 10_state.md R25 says these are never reached. Safe (log 7). -/
  | noSuchOffset
  deriving DecidableEq, Repr

/-- Why the model declines an instruction. -/
inductive Refusal where
  /-- The instruction has no meaning in the model. No arm of exec raises it: all eleven have their meaning. Safe. -/
  | notModelled (mnemonic : String)
  deriving DecidableEq, Repr

/-- CAP with no byte written since reset (10_state.md R29). -/
def Cap.empty : Cap := ⟨none, none, ⟨none, none⟩, ⟨none, none⟩, ⟨none, none⟩, ⟨none, none⟩⟩

/-- The block right after reset, with nothing from the host (10_state.md R29, 70_reset_and_hazards.md R180). -/
def State.reset : State := { cap := Cap.empty, cursor := 0, flt := 0x00, port := [], response := none }

end Sys2Proof.Machine
end

