-- ==== Sys2Proof/Machine/Flags.lean ====
section
/-! DEFINITION. The two indications of a response, CODE and OVF (10_state.md R28): the fault codes, and the narrowing
that sets OVF (40_timing_converter.md R100). There is no other flag. -/
namespace Sys2Proof.Machine

/-- The fault causes of 60_exceptions.md R160. -/
inductive FaultCause where
  | illegalOp
  | operandRange
  | divZero
  | rdOverrun
  | rdIncomplete
  deriving DecidableEq, Repr

/-- `CODE` of a command that raised no fault (60_exceptions.md R160). -/
def successCode : Byte := 0x00

/-- The code a fault is reported and latched with (60_exceptions.md R160). -/
def FaultCause.code : FaultCause → Byte
  | .illegalOp => 0x01
  | .operandRange => 0x02
  | .divZero => 0x03
  | .rdOverrun => 0x04
  | .rdIncomplete => 0x05

/-- `trunc_32` (00_scope.md R9, 40_timing_converter.md R100). -/
def trunc32 (t : Nat) : Word := BitVec.ofNat 32 t

/-- `OVF`: 1 exactly when the exact result does not fit 32 bits (40_timing_converter.md R100). -/
def overflows32 (t : Nat) : Bool := decide (2 ^ 32 ≤ t)

end Sys2Proof.Machine
end

