-- ==== Sys2Proof/Config.lean ====
section
/-! DEFINITION. What the spec leaves open and a run may depend on: one free value. CMD_LATENCY (70_reset_and_hazards.md
R191) is a time, and the model has none (log 16); N_INSTANCES is the argument `n` of Machine/Instances.lean (log 17). -/
namespace Sys2Proof

/-- What the byte of CAP that result-block offset `off` fills holds physically before a push writes it: 10_state.md R24
and R29 leave it unspecified, 93_implementation_defined.md K1 says `any value`. A free value: it has no body, so
nothing can be proved of it. DESIGN CHOICE (log 6), safe. No reachable read uses it. -/
opaque Config.unspecifiedCapByte (off : Nat) : Byte

end Sys2Proof
end

