-- ==== Sys2Proof/Machine/Params.lean ====
section
/-! DEFINITION. The numbers of 00_scope.md R7 and of the formulas, each once. The document's literals are unaudited
(91_not_in_source.md; UNVERIFIED, log 21) and are what the block is defined by. -/
namespace Sys2Proof.Machine

/-- `MACRO_PERIOD_VCSEL_PERIODS` (00_scope.md R7). -/
def macroPeriodVcselPeriods : Nat := 2304

/-- `PLL_NUMERATOR` (00_scope.md R7). -/
def pllNumerator : Nat := 2 ^ 30

/-- `GAIN_NUM` (00_scope.md R7). -/
def gainNum : Nat := 2011

/-- `GAIN_ROUND` (00_scope.md R7). -/
def gainRound : Nat := 1024

/-- `GAIN_DEN` (00_scope.md R7). -/
def gainDen : Nat := 2048

/-- `RESULT_BLOCK_LEN`: the CURSOR value of a complete block (00_scope.md R7, 10_state.md R25). -/
def resultBlockLen : Nat := 17

end Sys2Proof.Machine
end

