-- ==== Sys2Proof/Machine/Operands.lean ====
section
/-! DEFINITION. What commands read: the fields of the operand words and their must-be-0 bits (30_encoding.md R65, R66),
and the fields of CAP (10_state.md R23, R24). -/
namespace Sys2Proof.Machine

/-- `X[hi:lo]` of an operand word, as a natural number (30_encoding.md R66). -/
def field (w : Word) (hi lo : Nat) : Nat := bits w.toNat hi lo

/-- The must-be-0 bits `X[hi:lo]` are 0 (30_encoding.md R65). -/
def zeroBits (w : Word) (hi lo : Nat) : Bool := field w hi lo == 0

/-- The six fields of CAP, named (10_state.md R23). -/
inductive CapField where
  | rangeStatus
  | streamCount
  | effSpads
  | ambient
  | finalRange
  | peakRate
  deriving DecidableEq, Repr

/-- The highest result-block offset that fills the field (10_state.md R23, 20_memory.md R41). -/
def CapField.lastOffset : CapField → Nat
  | .rangeStatus => 0
  | .streamCount => 2
  | .effSpads => 4
  | .ambient => 8
  | .finalRange => 14
  | .peakRate => 16

/-- The CAP byte that a kept offset fills; none for a discarded offset and for a byte no push has written since reset
(20_memory.md R41). A view for statements: no command reads the result block by offset (20_memory.md R40). -/
def Cap.byteAt (c : Cap) : Nat → Option Byte
  | 0 => c.rangeStatus
  | 2 => c.streamCount
  | 3 => c.effSpads.hi
  | 4 => c.effSpads.lo
  | 7 => c.ambient.hi
  | 8 => c.ambient.lo
  | 13 => c.finalRange.hi
  | 14 => c.finalRange.lo
  | 15 => c.peakRate.hi
  | 16 => c.peakRate.lo
  | _ => none

/-- The number two bytes make, the high one first (20_memory.md R43); none while either is missing (20_memory.md R44). -/
def Field16.value? (f : Field16) : Option Nat :=
  match f.hi, f.lo with
  | some hi, some lo => some (hi.toNat * 256 + lo.toNat)
  | _, _ => none

/-- The bytes stored for a field, as a number. -/
def Cap.stored (c : Cap) : CapField → Option Nat
  | .rangeStatus => c.rangeStatus.map BitVec.toNat
  | .streamCount => c.streamCount.map BitVec.toNat
  | .effSpads => c.effSpads.value?
  | .ambient => c.ambient.value?
  | .finalRange => c.finalRange.value?
  | .peakRate => c.peakRate.value?

/-- The value a field of CAP holds, or none where it holds no value: it holds one exactly when every offset that fills
it is below CURSOR and was written since the last reset or RD_START (10_state.md R24). Below CURSOR, written since
then is what stored means, because CURSOR restarts at 0 and only pushes raise it (10_state.md R25; log 5). -/
def State.capValue (s : State) (f : CapField) : Option Nat :=
  if f.lastOffset < s.cursor.toNat then s.cap.stored f else none

/-- A CAP byte as RD_DECODE reads it. A byte never written is the free value of 93_implementation_defined.md K1 (log 6);
no reachable read meets one, since RD_DECODE reads only at CURSOR = 17 (10_state.md R24). -/
def readCapByte (off : Nat) (b : Option Byte) : Byte := b.getD (Config.unspecifiedCapByte off)

/-- A 16-bit CAP field as RD_DECODE reads it, its high byte filled from offset `off` (20_memory.md R43). -/
def readCapField16 (off : Nat) (f : Field16) : BitVec 16 := readCapByte off f.hi ++ readCapByte (off + 1) f.lo

end Sys2Proof.Machine
end

