-- ==== Sys2Proof/Machine/Ops.lean ====
section
/-! DEFINITION. The named operations that commands share: answering a command, raising a fault, the operand check that
comes first, the write of one result-block byte, and reset. -/
namespace Sys2Proof.Machine

/-- What a command or a step answers. -/
abbrev Answer := Host.Outcome State Fault Refusal

/-- Present a response (30_encoding.md R62). It writes no architectural state (10_state.md R22). -/
def State.respond (r : Response) (s : State) : State := { s with response := some r }

/-- The response of a successful command with result words `y0`, `y1`, `y2`; a word a command does not write is 0
(30_encoding.md R62), and OVF is 0 but for the narrowing commands (40_timing_converter.md R100). -/
def okResponse (y0 y1 y2 : Word) : Response := { code := successCode, ovf := false, y0 := y0, y1 := y1, y2 := y2 }

/-- Success with one result word. -/
def reply (y0 : Word) (s : State) : Answer := .next (s.respond (okResponse y0 0 0))

/-- Success of a TC command with exact result `t`: narrowed to 32 bits, OVF set where it does not fit, which is no
fault (40_timing_converter.md R100). -/
def replyNarrowed (t : Nat) (s : State) : Answer :=
  .next (s.respond { code := successCode, ovf := overflows32 t, y0 := trunc32 t, y1 := 0, y2 := 0 })

/-- The response of a faulting command (60_exceptions.md R162). -/
def faultResponse (f : FaultCause) : Response := { code := f.code, ovf := false, y0 := 0, y1 := 0, y2 := 0 }

/-- FLT after a fault: the first fault since reset stays (60_exceptions.md R163). -/
def latchFault (f : FaultCause) (flt : Byte) : Byte := if flt = 0x00 then f.code else flt

/-- TAKING A FAULT, the one shared operation: the response carries the code and zero words, FLT latches the first
fault, nothing else is written, and the block goes on (60_exceptions.md R162, R163, R166). There is no return from a
fault: none enters a handler (60_exceptions.md R167). -/
def raiseFault (f : FaultCause) (s : State) : Answer :=
  .next { s with flt := latchFault f s.flt, response := some (faultResponse f) }

/-- Run `k` if the must-be-0 operand bits are 0, else raise OPERAND_RANGE: it comes before the command's own condition
(60_exceptions.md R164). -/
def guardOperands (ok : Bool) (s : State) (k : Answer) : Answer := if ok then k else raiseFault .operandRange s

/-- `MemWrite(off, 1, byte)` of 20_memory.md R42: a kept offset fills its byte of CAP, a discarded one writes nothing;
none for an offset the result-block space does not have (20_memory.md R40). -/
def Cap.memWrite (off : Nat) (byte : Byte) (c : Cap) : Option Cap :=
  match off with
  | 0 => some { c with rangeStatus := some byte }
  | 2 => some { c with streamCount := some byte }
  | 3 => some { c with effSpads := { c.effSpads with hi := some byte } }
  | 4 => some { c with effSpads := { c.effSpads with lo := some byte } }
  | 7 => some { c with ambient := { c.ambient with hi := some byte } }
  | 8 => some { c with ambient := { c.ambient with lo := some byte } }
  | 13 => some { c with finalRange := { c.finalRange with hi := some byte } }
  | 14 => some { c with finalRange := { c.finalRange with lo := some byte } }
  | 15 => some { c with peakRate := { c.peakRate with hi := some byte } }
  | 16 => some { c with peakRate := { c.peakRate with lo := some byte } }
  | 1 | 5 | 6 | 9 | 10 | 11 | 12 => some c
  | _ => none

/-- Reset asserted by the host (70_reset_and_hazards.md R180 to R182): the state of power-on, no response. The host's
later inputs stay on the port (log 4). -/
def State.hostReset (s : State) : State := { State.reset with port := s.port }

end Sys2Proof.Machine
end

