-- ==== Sys2Proof/Machine/ResultDecoder.lean ====
section
/-! DEFINITION. The RD commands (41_result_decoder.md): the byte capture, its decoding, and the two pure functions GAIN
and MUX. -/
namespace Sys2Proof.Machine

/-- The semantic statuses of 30_encoding.md R74 (`None`, "no update", is `noUpdate`). -/
inductive SemStatus where
  | rangeValid
  | sigmaFail
  | signalFail
  | rangeValidMinRangeClipped
  | outOfBoundsFail
  | hardwareFail
  | rangeValidNoWrapCheckFail
  | wrapTargetFail
  | xtalkSignalFail
  | synchronizationInt
  | minRangeFail
  | noUpdate
  deriving DecidableEq, Repr

/-- The 8-bit codes of 30_encoding.md R74, the spec's decision (92_eei_decisions.md D12; log 13). -/
def SemStatus.code : SemStatus → Byte
  | .rangeValid => 0x00
  | .sigmaFail => 0x01
  | .signalFail => 0x02
  | .rangeValidMinRangeClipped => 0x03
  | .outOfBoundsFail => 0x04
  | .hardwareFail => 0x05
  | .rangeValidNoWrapCheckFail => 0x06
  | .wrapTargetFail => 0x07
  | .xtalkSignalFail => 0x09
  | .synchronizationInt => 0x0A
  | .minRangeFail => 0x0D
  | .noUpdate => 0xFF

/-- `GAIN(raw_mm)`, the distance correction with round to nearest (41_result_decoder.md R123). -/
def gain (rawMm : Nat) : Nat := (rawMm * gainNum + gainRound) / gainDen

/-- `MUX(raw, sc)`, the range-status multiplexer (41_result_decoder.md R124). The whole raw byte is compared
(30_encoding.md R73; log 12); the stream count matters for raw code 9 only. -/
def mux (raw sc : Nat) : SemStatus :=
  match raw with
  | 1 | 2 | 3 | 17 => .hardwareFail
  | 4 => .signalFail
  | 5 => .outOfBoundsFail
  | 6 => .sigmaFail
  | 7 => .wrapTargetFail
  | 8 => .rangeValidMinRangeClipped
  | 9 => if sc = 0 then .rangeValidNoWrapCheckFail else .rangeValid
  | 12 => .xtalkSignalFail
  | 13 => .minRangeFail
  | 18 => .synchronizationInt
  | _ => .noUpdate

/-- The response of RD_DECODE for a captured block, packed as 30_encoding.md R78 says. -/
def decodeResponse (c : Cap) : Response :=
  let rawStatus := readCapByte 0 c.rangeStatus
  let streamCount := readCapByte 2 c.streamCount
  let effSpads := readCapField16 3 c.effSpads
  let ambient := readCapField16 7 c.ambient
  let peakRate := readCapField16 15 c.peakRate
  let mm := BitVec.ofNat 16 (gain (readCapField16 13 c.finalRange).toNat)
  let sem := (mux rawStatus.toNat streamCount.toNat).code
  okResponse (rawStatus ++ sem ++ mm) (ambient ++ peakRate) (0x00#8 ++ streamCount ++ effSpads)

/-- `RD_START` (41_result_decoder.md R120). It does not write the CAP bytes: with CURSOR 0 no field holds a value
(10_state.md R24). -/
def execRdStart (a b : Word) (s : State) : Answer :=
  guardOperands (zeroBits a 31 0 && zeroBits b 31 0) s <| reply 0 { s with cursor := 0 }

/-- `RD_PUSH byte` (41_result_decoder.md R121). A CURSOR above 17, which no run reaches (10_state.md R25), names no
offset of the result-block space: the model stops there (log 7). -/
def execRdPush (a b : Word) (s : State) : Answer :=
  guardOperands (zeroBits a 31 8 && zeroBits b 31 0) s <|
    if s.cursor.toNat = resultBlockLen then raiseFault .rdOverrun s
    else
      match s.cap.memWrite s.cursor.toNat (BitVec.ofNat 8 (field a 7 0)) with
      | some cap => reply ((s.cursor + 1).setWidth 32) { s with cap := cap, cursor := s.cursor + 1 }
      | none => .fault .noSuchOffset

/-- `RD_DECODE` (41_result_decoder.md R122). It writes no state and does not consume the block. -/
def execRdDecode (a b : Word) (s : State) : Answer :=
  guardOperands (zeroBits a 31 0 && zeroBits b 31 0) s <|
    if s.cursor.toNat = resultBlockLen then .next (s.respond (decodeResponse s.cap))
    else raiseFault .rdIncomplete s

/-- `RD_MAP_STATUS raw, sc` (41_result_decoder.md R125). -/
def execRdMapStatus (a b : Word) (s : State) : Answer :=
  guardOperands (zeroBits a 31 8 && zeroBits b 31 8) s <|
    reply ((mux (field a 7 0) (field b 7 0)).code.setWidth 32) s

/-- `RD_GAIN raw_mm` (41_result_decoder.md R126). -/
def execRdGain (a b : Word) (s : State) : Answer :=
  guardOperands (zeroBits a 31 16 && zeroBits b 31 0) s <| reply (BitVec.ofNat 32 (gain (field a 15 0))) s

end Sys2Proof.Machine
end

