-- ==== Sys2Proof/Machine/StatusCommand.lean ====
section
/-! DEFINITION. The one common command, STATUS (42_status.md). -/
namespace Sys2Proof.Machine

/-- The word STATUS returns: FLT in bits 7:0, CURSOR in 12:8, 0 above (42_status.md R150, 10_state.md R27). -/
def statusWord (s : State) : Word := 0#19 ++ s.cursor ++ s.flt

/-- `STATUS` (42_status.md R150). It reads both status registers and clears neither. -/
def execStatus (a b : Word) (s : State) : Answer :=
  guardOperands (zeroBits a 31 0 && zeroBits b 31 0) s <| reply (statusWord s) s

end Sys2Proof.Machine
end

