-- ==== Sys2Proof/Machine/TimingConverter.lean ====
section
/-! DEFINITION. The TC commands (40_timing_converter.md): pure functions of the operands on exact naturals
(00_scope.md R3, R9), narrowed at the end (R100). -/
namespace Sys2Proof.Machine

/-- The exact macro period in 12.12 microseconds, in the order of steps that 40_timing_converter.md R102 makes
normative: shift, multiply, shift. `pclks` is not narrowed (30_encoding.md R67). -/
def macroPeriodExact (vcsel fosc : Nat) : Nat :=
  let pclks := (vcsel + 1) * 2
  let pll := pllNumerator / fosc
  let t := pll * macroPeriodVcselPeriods
  let t := t >>> 6
  let t := t * pclks
  t >>> 6

/-- The exact microsecond count, rounded half up (40_timing_converter.md R103). -/
def mclkToUsExact (mclks mp : Nat) : Nat := (mclks * mp + 0x800) >>> 12

/-- The exact macro-clock count, rounded half up, for `mp` other than 0 (40_timing_converter.md R104). -/
def usToMclkExact (us mp : Nat) : Nat := ((us <<< 12) + (mp >>> 1)) / mp

/-- The loop of 40_timing_converter.md R105 from exponent `e` and shifted value `ls`, as (exponent, mantissa); `fuel`
bounds its iterations. -/
def encodeLoop : Nat → Nat → Nat → Nat × Nat
  | 0, ls, e => (e, ls)
  | fuel + 1, ls, e => if 0xFF < ls then encodeLoop fuel (ls >>> 1) (e + 1) else (e, ls)

/-- The exponent and mantissa of a nonzero 32-bit count. The loop runs at most 24 times (70_reset_and_hazards.md R191;
DEDUCED that it never needs more: the count less one is below 2^32; log 20). -/
def encodeFields (mclks : Nat) : Nat × Nat := encodeLoop 24 (mclks - 1) 0

/-- The 16-bit timeout encoding (40_timing_converter.md R105). -/
def encodeTimeoutReg (mclks : Nat) : BitVec 16 :=
  if mclks = 0 then 0
  else
    let f := encodeFields mclks
    BitVec.ofNat 8 f.1 ++ BitVec.ofNat 8 f.2

/-- The exact macro-clock count of a timeout encoding with mantissa `m` and exponent `e`; the shift amount is not
reduced (40_timing_converter.md R106). -/
def decodeTimeoutExact (m e : Nat) : Nat := (m <<< e) + 1

/-- `MACRO_PERIOD vcsel, fosc` (40_timing_converter.md R101). -/
def execMacroPeriod (a b : Word) (s : State) : Answer :=
  guardOperands (zeroBits a 31 8 && zeroBits b 31 16) s <|
    if field b 15 0 = 0 then raiseFault .divZero s
    else replyNarrowed (macroPeriodExact (field a 7 0) (field b 15 0)) s

/-- `MCLK_TO_US mclks, mp` (40_timing_converter.md R103). It cannot fault. -/
def execMclkToUs (a b : Word) (s : State) : Answer := replyNarrowed (mclkToUsExact (field a 31 0) (field b 31 0)) s

/-- `US_TO_MCLK us, mp` (40_timing_converter.md R104). -/
def execUsToMclk (a b : Word) (s : State) : Answer :=
  if field b 31 0 = 0 then raiseFault .divZero s
  else replyNarrowed (usToMclkExact (field a 31 0) (field b 31 0)) s

/-- `ENC_TIMEOUT mclks` (40_timing_converter.md R105). -/
def execEncTimeout (a b : Word) (s : State) : Answer :=
  guardOperands (zeroBits b 31 0) s <| reply ((encodeTimeoutReg (field a 31 0)).setWidth 32) s

/-- `DEC_TIMEOUT reg` (40_timing_converter.md R106). -/
def execDecTimeout (a b : Word) (s : State) : Answer :=
  guardOperands (zeroBits a 31 16 && zeroBits b 31 0) s <|
    replyNarrowed (decodeTimeoutExact (field a 7 0) (field a 15 8)) s

end Sys2Proof.Machine
end

