-- ==== Sys2Proof/Machine/Dispatch.lean ====
section
/-! DEFINITION. Which meaning each command has (30_encoding.md R63). -/
namespace Sys2Proof.Machine

def exec (i : Instr) (s : State) : Host.Outcome State Fault Refusal :=
  match i with
  | .macroPeriod a b => Sys2Proof.Machine.execMacroPeriod a b s
  | .mclkToUs a b => Sys2Proof.Machine.execMclkToUs a b s
  | .usToMclk a b => Sys2Proof.Machine.execUsToMclk a b s
  | .encTimeout a b => Sys2Proof.Machine.execEncTimeout a b s
  | .decTimeout a b => Sys2Proof.Machine.execDecTimeout a b s
  | .rdStart a b => Sys2Proof.Machine.execRdStart a b s
  | .rdPush a b => Sys2Proof.Machine.execRdPush a b s
  | .rdDecode a b => Sys2Proof.Machine.execRdDecode a b s
  | .rdMapStatus a b => Sys2Proof.Machine.execRdMapStatus a b s
  | .rdGain a b => Sys2Proof.Machine.execRdGain a b s
  | .status a b => Sys2Proof.Machine.execStatus a b s

end Sys2Proof.Machine
end

