-- ==== Sys2Proof/Machine/Port.lean ====
section
/-! DEFINITION. What the block does with one input of the host: it decodes and executes a command, or resets
(30_encoding.md R60, R64; 70_reset_and_hazards.md R180, R181). -/
namespace Sys2Proof.Machine

/-- Execute one command. The opcode is decoded before its operands are looked at, so a reserved one raises ILLEGAL_OP
whatever its operands are (30_encoding.md R64, 60_exceptions.md R164). -/
def runCommand (c : Command) (s : State) : Answer :=
  match decode c with
  | .ok i => exec i s
  | .error (.reservedOpcode _) => raiseFault .illegalOp s

/-- Take the host's oldest input (00_scope.md R11). With none on the port the block waits and nothing changes
(DESIGN CHOICE, log 3). -/
def takeInput (s : State) : Answer :=
  match s.port with
  | [] => .next s
  | .command c :: rest => runCommand c { s with port := rest }
  | .reset :: rest => .next { s with port := rest }.hostReset

/-- The host issues one more input: it goes behind those that wait (00_scope.md R11; log 1). -/
def State.issue (x : HostInput) (s : State) : State := { s with port := s.port ++ [x] }

/-- The host's inputs with `c` before all that wait: what the next step takes. -/
def State.presentNext (c : Command) (s : State) : State := { s with port := .command c :: s.port }

end Sys2Proof.Machine
end

