-- ==== Sys2Proof/Machine/Step.lean ====
section
/-! DEFINITION. One step of the block: it executes one command completely (00_scope.md R11), or takes a reset
between commands (70_reset_and_hazards.md R181). -/
namespace Sys2Proof.Machine

/-- One step: the host's oldest input, taken whole. -/
def step (s : State) : Host.Outcome State Fault Refusal := takeInput s

/-- The state in which the very next step takes the command with the given opcode-table bits. The block fetches
nothing (10_state.md R21): this stands for the host issuing the command (log 10). -/
def State.withFetchWord (s : State) (nbits w : Nat) : State := s.presentNext (Command.ofTableWord nbits w)

end Sys2Proof.Machine
end

