-- ==== Sys2Proof/Machine/Assembler.lean ====
section
/-! DEFINITION. The spelling of a command in assembler (30_encoding.md R79). The block does not read it; it says which
command a line stands for. Spaces, letter case and literals over 32 bits: DESIGN CHOICE (log 18). -/
namespace Sys2Proof.Machine

/-- Mnemonic, opcode and number of operands written (30_encoding.md R63, R65, R79). -/
def mnemonicTable : List (List Char × Byte × Nat) :=
  [("MACRO_PERIOD".toList, 0x01, 2), ("MCLK_TO_US".toList, 0x02, 2), ("US_TO_MCLK".toList, 0x03, 2),
   ("ENC_TIMEOUT".toList, 0x04, 1), ("DEC_TIMEOUT".toList, 0x05, 1), ("RD_START".toList, 0x10, 0),
   ("RD_PUSH".toList, 0x11, 1), ("RD_DECODE".toList, 0x12, 0), ("RD_MAP_STATUS".toList, 0x13, 2),
   ("RD_GAIN".toList, 0x14, 1), ("STATUS".toList, 0x20, 0)]

/-- The value of a digit in a base up to 16; hexadecimal letters of either case. -/
def digitValue (base : Nat) (c : Char) : Option Nat :=
  let n := c.toNat
  let v :=
    if 48 ≤ n ∧ n ≤ 57 then n - 48
    else if 65 ≤ n ∧ n ≤ 70 then n - 55
    else if 97 ≤ n ∧ n ≤ 102 then n - 87
    else 16
  if v < base then some v else none

/-- The number a string of digits spells, from `acc`. -/
def digitsValue (base : Nat) : List Char → Nat → Option Nat
  | [], acc => some acc
  | c :: cs, acc => (digitValue base c).bind fun d => digitsValue base cs (acc * base + d)

/-- A decimal or `0x` hexadecimal literal of at most 32 bits (30_encoding.md R79). -/
def parseLiteral (cs : List Char) : Option Word :=
  let n? :=
    match cs with
    | [] => none
    | ['0', 'x'] => none
    | '0' :: 'x' :: ds => digitsValue 16 ds 0
    | ds => digitsValue 10 ds 0
  n?.bind fun n => if n < 2 ^ 32 then some (BitVec.ofNat 32 n) else none

/-- Without its leading and trailing spaces. -/
def trimSpaces (cs : List Char) : List Char :=
  ((cs.dropWhile (· == ' ')).reverse.dropWhile (· == ' ')).reverse

/-- The operand texts of a line after its mnemonic: none for a bare mnemonic, else the parts between commas. -/
def operandTexts (cs : List Char) : List (List Char) :=
  if trimSpaces cs = [] then [] else (cs.splitOn ',').map trimSpaces

/-- The command that a mnemonic and its operands stand for: `A` alone leaves `B` 0, a bare mnemonic leaves both 0
(30_encoding.md R79); none for an unknown mnemonic or another number of operands. -/
def assemble (mnemonic : List Char) (operands : List Word) : Option Command :=
  (mnemonicTable.find? fun row => row.1 == mnemonic).bind fun row =>
    match row.2.2, operands with
    | 0, [] => some ⟨row.2.1, 0, 0⟩
    | 1, [a] => some ⟨row.2.1, a, 0⟩
    | 2, [a, b] => some ⟨row.2.1, a, b⟩
    | _, _ => none

/-- One line of assembler. -/
def assembleLine (line : List Char) : Option Command :=
  let text := trimSpaces line
  let mnemonic := text.takeWhile (· != ' ')
  ((operandTexts (text.dropWhile (· != ' '))).mapM parseLiteral).bind (assemble mnemonic)

end Sys2Proof.Machine
end

