-- ==== Sys2Proof/Machine/Instances.lean ====
section
/-! DEFINITION. One block instance per sensor (00_scope.md R12, 60_exceptions.md R171): `n` instances, the parameter
N_INSTANCES of 00_scope.md R7 (log 17), which share no state. -/
namespace Sys2Proof.Machine

/-- The instances of a host, told apart by the host alone (60_exceptions.md R171). -/
abbrev Instances (n : Nat) := Vector State n

/-- Instance `k` takes one step; every other instance is as it was (60_exceptions.md R171). -/
def stepInstance {n : Nat} (k : Fin n) (blocks : Instances n) : Host.Outcome (Instances n) Fault Refusal :=
  match step (blocks.get k) with
  | .next s => .next (blocks.set k s)
  | .fault f => .fault f
  | .refused r => .refused r

/-- `n` instances right after reset. -/
def Instances.reset (n : Nat) : Instances n := Vector.replicate n State.reset

end Sys2Proof.Machine
end

