-- ==== Sys2Proof/Machine/Pseudo.lean ====
section
/-! DEFINITION. The pseudo-instructions of 30_encoding.md R80: macros of the host, each expanding to real commands. The
block knows nothing of them, and they are not atomic. -/
namespace Sys2Proof.Machine

/-- The `RD_PUSH byte` command (30_encoding.md R65). -/
def pushCommand (byte : Byte) : Command := encode (.rdPush (byte.setWidth 32) 0)

/-- `RD_LOAD b0, …, b16`: RD_START and 17 RD_PUSH, in order (30_encoding.md R80). -/
def rdLoad (block : Vector Byte 17) : List Command := encode (.rdStart 0 0) :: block.toList.map pushCommand

/-- A pseudo-instruction of two commands: the first, and the second as the host makes it from the first one's `Y0`
(10_state.md R22: the copying is the host's). -/
structure TwoStep where
  first : Command
  second : Word → Command

/-- `TIMEOUT_FROM_US us, mp` (30_encoding.md R80). -/
def timeoutFromUs (us mp : Word) : TwoStep :=
  { first := encode (.usToMclk us mp), second := fun y0 => encode (.encTimeout y0 0) }

/-- `US_FROM_TIMEOUT reg, mp` (30_encoding.md R80). -/
def usFromTimeout (reg mp : Word) : TwoStep :=
  { first := encode (.decTimeout reg 0), second := fun y0 => encode (.mclkToUs y0 mp) }

/-- Both commands of a two-step macro with no other command between them: the two responses, in order, and the state
after the second; none where the model stops. Both commands are issued whatever the first one's CODE (DESIGN CHOICE,
log 22): its faulted `Y0` is 0. -/
def TwoStep.run (p : TwoStep) (s : State) : Option (Response × Response × State) :=
  match runCommand p.first s with
  | .next s1 =>
    match s1.response with
    | some r1 =>
      match runCommand (p.second r1.y0) s1 with
      | .next s2 => s2.response.map fun r2 => (r1, r2, s2)
      | _ => none
    | none => none
  | _ => none

end Sys2Proof.Machine
end

