-- ==== Sys2Proof/Safety.lean ====
section
/-! DEFINITION. What claims take as premises: the states a run can reach, and the duties the host owes the block
(70_reset_and_hazards.md R186), which the block cannot check. -/
namespace Sys2Proof.Machine

/-- `CURSOR` is legal: 0 to 17 (10_state.md R25). -/
abbrev State.CursorLegal (s : State) : Prop := s.cursor.toNat ≤ 17

/-- `FLT` is legal: 0x00 to 0x05 (10_state.md R26). -/
abbrev State.FltLegal (s : State) : Prop := s.flt.toNat ≤ 5

/-- The result-block offsets whose bytes CAP keeps (20_memory.md R41). -/
def keptOffsets : List Nat := [0, 2, 3, 4, 7, 8, 13, 14, 15, 16]

/-- Every kept offset below CURSOR has been written: 10_state.md R24's reading of CURSOR. -/
abbrev State.CaptureBacked (s : State) : Prop :=
  ∀ off ∈ keptOffsets, off < s.cursor.toNat → (s.cap.byteAt off).isSome = true

/-- The invariant of the block's reachable states. -/
abbrev State.Inv (s : State) : Prop := s.CursorLegal ∧ s.FltLegal ∧ s.CaptureBacked

/-- No fault since reset (10_state.md R26, 92_eei_decisions.md D16). -/
abbrev State.NoFaultRecorded (s : State) : Prop := s.flt = 0x00

end Sys2Proof.Machine

namespace Sys2Proof.Safety
open Sys2Proof.Machine

/-- One command of a host's session since reset, with its response and what only the host knows of it (log 19). -/
structure Exchange where
  command : Command
  response : Response
  /-- The VCSEL period register value programmed when the command was issued. -/
  programmedVcsel : Byte
  /-- For a pushed byte: which read transaction it came from, where in that transaction, and whether that succeeded. -/
  transaction : Nat
  position : Nat
  transactionOk : Bool
  /-- Whether the host checked CODE and OVF of the response. -/
  checked : Bool
  deriving DecidableEq, Repr

/-- The command has this opcode and raised no fault. -/
def Exchange.succeeded (x : Exchange) (cmd : Byte) : Prop := x.command.cmd = cmd ∧ x.response.code = 0x00

/-- No RD_START succeeds among these exchanges: what stands on either side of them is of one block
(41_result_decoder.md R120). -/
def SameBlock (mid : List Exchange) : Prop := ∀ z ∈ mid, ¬ z.succeeded 0x10

/-- Every response of the session is the block's answer to its command, in some state. -/
def AnsweredByBlock (session : List Exchange) : Prop :=
  ∀ x ∈ session, ∃ s t, runCommand x.command s = .next t ∧ t.response = some x.response

/-- Duty 1: every MACRO_PERIOD has the one `fosc` captured at initialisation (70_reset_and_hazards.md R185, R186). -/
def OneOscillatorValue (fosc : Word) (session : List Exchange) : Prop :=
  ∀ x ∈ session, x.command.cmd = 0x01 → x.command.b = fosc

/-- Duty 2: every MACRO_PERIOD has the VCSEL period that is programmed then (70_reset_and_hazards.md R186). -/
def ActiveVcselPeriod (session : List Exchange) : Prop :=
  ∀ x ∈ session, x.command.cmd = 0x01 → x.command.a = x.programmedVcsel.setWidth 32

/-- `mp` was returned by a MACRO_PERIOD with OVF = 0 (70_reset_and_hazards.md R186). -/
def ReturnedMacroPeriod (earlier : List Exchange) (mp : Word) : Prop :=
  ∃ y ∈ earlier, y.succeeded 0x01 ∧ y.response.ovf = false ∧ y.response.y0 = mp

/-- Duty 3: the `mp` of every conversion was returned earlier (70_reset_and_hazards.md R186). -/
def MacroPeriodFromBlock (session : List Exchange) : Prop :=
  ∀ pre x post, session = pre ++ x :: post → x.command.cmd = 0x02 ∨ x.command.cmd = 0x03 →
    ReturnedMacroPeriod pre x.command.b

/-- Duty 4: the bytes of one block come from one read transaction, each at its own position
(70_reset_and_hazards.md R186, R189). -/
def OneTransactionPerBlock (session : List Exchange) : Prop :=
  (∀ x ∈ session, x.succeeded 0x11 → x.response.y0.toNat = x.position + 1) ∧
  ∀ pre x mid y post, session = pre ++ x :: mid ++ y :: post → x.succeeded 0x11 → y.succeeded 0x11 →
    SameBlock mid → x.transaction = y.transaction

/-- Duty 5: no block is decoded whose read transaction failed (70_reset_and_hazards.md R186). -/
def NoFailedTransactionDecoded (session : List Exchange) : Prop :=
  ∀ pre x mid y post, session = pre ++ x :: mid ++ y :: post → x.succeeded 0x11 → y.succeeded 0x12 →
    SameBlock mid → x.transactionOk = true

/-- Duty 6: the host checks CODE and OVF of each response (70_reset_and_hazards.md R186). -/
def ResponsesChecked (session : List Exchange) : Prop := ∀ x ∈ session, x.checked = true

/-- All six duties of 70_reset_and_hazards.md R186 over one session. -/
structure HostDuties (fosc : Word) (session : List Exchange) : Prop where
  oneOscillatorValue : OneOscillatorValue fosc session
  activeVcselPeriod : ActiveVcselPeriod session
  macroPeriodFromBlock : MacroPeriodFromBlock session
  oneTransactionPerBlock : OneTransactionPerBlock session
  noFailedTransactionDecoded : NoFailedTransactionDecoded session
  responsesChecked : ResponsesChecked session

end Sys2Proof.Safety
end

