-- ==== Sys2Proof/WellFormed.lean ====
section
/-! DEFINITION. Which operand words lie in the fields 30_encoding.md R65 gives each command. A command outside them
still decodes and runs: its meaning raises OPERAND_RANGE (30_encoding.md R64). -/
namespace Sys2Proof

/-- `w` is a value of a `width`-bit field: every bit above the field is 0 (30_encoding.md R65, R66). -/
def fitsField (width : Nat) (w : Word) : Bool := decide (w.toNat < 2 ^ width)

/-- Every must-be-0 operand bit of the command is 0 (30_encoding.md R65, row by row). -/
def Instr.wellFormed : Instr → Bool
  | .macroPeriod a b => fitsField 8 a && fitsField 16 b
  | .mclkToUs _ _ => true
  | .usToMclk _ _ => true
  | .encTimeout _ b => fitsField 0 b
  | .decTimeout a b => fitsField 16 a && fitsField 0 b
  | .rdStart a b => fitsField 0 a && fitsField 0 b
  | .rdPush a b => fitsField 8 a && fitsField 0 b
  | .rdDecode a b => fitsField 0 a && fitsField 0 b
  | .rdMapStatus a b => fitsField 8 a && fitsField 8 b
  | .rdGain a b => fitsField 16 a && fitsField 0 b
  | .status a b => fitsField 0 a && fitsField 0 b

end Sys2Proof
end

