-- ==== Sys2Proof/Certificates/Slice0/Obligations.lean ====
section
/-! DEFINITION. The statements made of the model. Each names the rule of spec/ it formalises, or says that it is the
model's choice and names the log entry. Result statements give the next state WHOLE (`afterReply`, `afterFault`, a record
update): their equation is also the frame, so every field not named there is unchanged. -/
namespace Sys2Proof.Statements
open Sys2Proof.Machine

/-- `s` with a success response: nothing else changes (30_encoding.md R62). -/
def afterReply (ovf : Bool) (y0 y1 y2 : Word) (s : State) : State :=
  { s with response := some { code := 0x00, ovf := ovf, y0 := y0, y1 := y1, y2 := y2 } }

/-- `s` after a fault with this code: zero words in the response, FLT takes the code if it was 0, nothing else changes
(60_exceptions.md R162, R163). -/
def afterFault (code : Byte) (s : State) : State :=
  { s with
    flt := if s.flt = 0x00 then code else s.flt
    response := some { code := code, ovf := false, y0 := 0, y1 := 0, y2 := 0 } }

/-- The opcodes of 30_encoding.md R63. -/
def opcodeMap : List Byte := [0x01, 0x02, 0x03, 0x04, 0x05, 0x10, 0x11, 0x12, 0x13, 0x14, 0x20]

/-- The response a command or step answers, where it answers one. -/
def responseOf : Answer → Option Response
  | .next t => t.response
  | _ => none

end Sys2Proof.Statements

open Sys2Proof Sys2Proof.Machine Sys2Proof.Statements Sys2Proof.Safety

/-! ## Encoding -/

/-- A few commands written out from 30_encoding.md R60, R63 and R65 decode to what they stand for, and 0x00 and 0x06
are refused. The place of A and B in the number is the model's choice (log 8). -/
def Obligations.SampleWordsDecode : Prop :=
  decodeTableWord 72 0x0000B0000000000F01 = some (.macroPeriod 0x0F 0xB000) ∧
  decodeTableWord 72 0x000000000000012C04 = some (.encTimeout 300 0) ∧
  decodeTableWord 72 0x000000000000001211 = some (.rdPush 0x12 0) ∧
  decodeTableWord 8 0x20 = some (.status 0 0) ∧
  decodeTableWord 72 0x00 = none ∧ decodeTableWord 72 0x06 = none

/-- Decoding an encoded command gives it back, for every operand word: no bit of a command is dropped. The 72-bit
layout is the model's choice (log 8). -/
def Obligations.EncodedCommandDecodesToItself : Prop :=
  ∀ i : Instr, decodeTableWord 72 (encodeTableWord i) = some i

/-- The other direction: a 72-bit string that decodes is the encoding of what it decodes to, so each command has one
encoding. The 72-bit layout is the model's choice (log 8). -/
def Obligations.DecodedStringIsTheEncoding : Prop :=
  ∀ (w : Nat) (i : Instr), w < 2 ^ 72 → decodeTableWord 72 w = some i → encodeTableWord i = w

/-- 30_encoding.md R63: the opcode map, row by row, and every opcode outside it is refused as reserved. -/
def Obligations.OpcodeMapIsTheDecoder : Prop :=
  ∀ a b : Word,
    decode ⟨0x01, a, b⟩ = .ok (.macroPeriod a b) ∧ decode ⟨0x02, a, b⟩ = .ok (.mclkToUs a b) ∧
    decode ⟨0x03, a, b⟩ = .ok (.usToMclk a b) ∧ decode ⟨0x04, a, b⟩ = .ok (.encTimeout a b) ∧
    decode ⟨0x05, a, b⟩ = .ok (.decTimeout a b) ∧ decode ⟨0x10, a, b⟩ = .ok (.rdStart a b) ∧
    decode ⟨0x11, a, b⟩ = .ok (.rdPush a b) ∧ decode ⟨0x12, a, b⟩ = .ok (.rdDecode a b) ∧
    decode ⟨0x13, a, b⟩ = .ok (.rdMapStatus a b) ∧ decode ⟨0x14, a, b⟩ = .ok (.rdGain a b) ∧
    decode ⟨0x20, a, b⟩ = .ok (.status a b) ∧
    ∀ cmd : Byte, cmd ∉ opcodeMap → decode ⟨cmd, a, b⟩ = .error (.reservedOpcode cmd)

/-- 30_encoding.md R64: a reserved opcode raises ILLEGAL_OP, and a must-be-0 operand bit that is 1 raises
OPERAND_RANGE. There is no opcode outside the map that has another effect. -/
def Obligations.ReservedEncodingsFault : Prop :=
  ∀ (s : State) (c : Command),
    (c.cmd ∉ opcodeMap → runCommand c s = .next (afterFault 0x01 s)) ∧
    (∀ i, decode c = .ok i → i.wellFormed = false → runCommand c s = .next (afterFault 0x02 s))

/-- 30_encoding.md R79: the three worked lines of assembler. -/
def Obligations.AssemblerExamples : Prop :=
  assembleLine "MACRO_PERIOD 0x0F, 0xB000".toList = some ⟨0x01, 0x0000000F, 0x0000B000⟩ ∧
  assembleLine "ENC_TIMEOUT 300".toList = some ⟨0x04, 300, 0⟩ ∧
  assembleLine "RD_START".toList = some ⟨0x10, 0, 0⟩

/-! ## The step -/

/-- 00_scope.md R11: one step takes the oldest command off the port and is the meaning of the instruction it decodes
to. The port is the model's choice (log 1). -/
def Obligations.StepRunsTheDecodedInstruction : Prop :=
  ∀ (s : State) (c : Command) (rest : List HostInput) (i : Instr),
    s.port = .command c :: rest → decode c = .ok i → step s = exec i { s with port := rest }

/-- The step after a command is placed runs exactly that command, and leaves the port as it was before the placing. The
placing is the model's choice (log 10). -/
def Obligations.PlacedCommandRunsNext : Prop :=
  ∀ (s : State) (i : Instr), step (s.withFetchWord 72 (encodeTableWord i)) = exec i s

/-- With nothing from the host the block waits: the step changes nothing. The model's choice (log 3). -/
def Obligations.EmptyPortWaits : Prop :=
  ∀ s : State, s.port = [] → step s = .next s

/-- 70_reset_and_hazards.md R180: a reset clears CURSOR and FLT, leaves every CAP field holding no value, and gives no
response. Later inputs stay on the port (log 4). -/
def Obligations.AssertedResetClearsTheBlock : Prop :=
  ∀ (s : State) (rest : List HostInput), s.port = .reset :: rest →
    ∃ t, step s = .next t ∧ t.cursor = 0 ∧ t.flt = 0x00 ∧ (∀ f, t.capValue f = none) ∧ t.response = none ∧
      t.port = rest

/-- 10_state.md R29: the state after reset. -/
def Obligations.ResetState : Prop :=
  State.reset.cursor = 0 ∧ State.reset.flt = 0x00 ∧ ∀ f, State.reset.capValue f = none

/-- 60_exceptions.md R162, R166: the block never halts. From a legal CURSOR every step answers a next state. -/
def Obligations.BlockNeverHalts : Prop :=
  ∀ s : State, s.CursorLegal → ∃ t, step s = .next t

/-- 30_encoding.md R62: every command, reserved ones too, produces exactly one response; on a fault OVF and the words
are 0. -/
def Obligations.EveryCommandAnswersOneResponse : Prop :=
  ∀ (s : State) (c : Command), s.CursorLegal →
    ∃ t r, runCommand c s = .next t ∧ t.response = some r ∧
      (r.code ≠ 0x00 → r.ovf = false ∧ r.y0 = 0 ∧ r.y1 = 0 ∧ r.y2 = 0)

/-! ## Timing converter -/

/-- 40_timing_converter.md R101: MACRO_PERIOD's result, narrowing and faults. -/
def Obligations.MacroPeriodResult : Prop :=
  ∀ (s : State) (a b : Word),
    decode ⟨0x01, a, b⟩ = .ok (.macroPeriod a b) ∧
    (a.toNat < 256 → b.toNat < 65536 → b.toNat ≠ 0 →
      let t := (2 ^ 30 / b.toNat * 2304 / 64 * ((a.toNat + 1) * 2)) / 64
      exec (.macroPeriod a b) s = .next (afterReply (decide (2 ^ 32 ≤ t)) (BitVec.ofNat 32 t) 0 0 s)) ∧
    (256 ≤ a.toNat ∨ 65536 ≤ b.toNat → exec (.macroPeriod a b) s = .next (afterFault 0x02 s)) ∧
    (a.toNat < 256 → b.toNat = 0 → exec (.macroPeriod a b) s = .next (afterFault 0x03 s))

/-- 40_timing_converter.md R102: joining the two 6-bit shifts into one 12-bit shift after both multiplications changes
nothing; the two reorderings it forbids give other numbers at vcsel = 0x0F, fosc = 0xB000. -/
def Obligations.MacroPeriodShiftOrder : Prop :=
  (∀ vcsel fosc : Nat, macroPeriodExact vcsel fosc = 2 ^ 30 / fosc * 2304 * ((vcsel + 1) * 2) / 2 ^ 12) ∧
  macroPeriodExact 0x0F 0xB000 = 428958 ∧
  2 ^ 30 / 0xB000 / 64 * 2304 * 32 / 64 = 428544 ∧ 2 ^ 30 * 2304 * 32 / 0xB000 / 2 ^ 12 = 428962

/-- 40_timing_converter.md R103: MCLK_TO_US's result for all operands; it cannot fault. -/
def Obligations.MclkToUsResult : Prop :=
  ∀ (s : State) (a b : Word),
    decode ⟨0x02, a, b⟩ = .ok (.mclkToUs a b) ∧
    (let t := (a.toNat * b.toNat + 0x800) / 2 ^ 12
     exec (.mclkToUs a b) s = .next (afterReply (decide (2 ^ 32 ≤ t)) (BitVec.ofNat 32 t) 0 0 s))

/-- 40_timing_converter.md R104: US_TO_MCLK's result, and DIV_ZERO at a zero macro period. -/
def Obligations.UsToMclkResult : Prop :=
  ∀ (s : State) (a b : Word),
    decode ⟨0x03, a, b⟩ = .ok (.usToMclk a b) ∧
    (b.toNat ≠ 0 →
      let t := (a.toNat * 2 ^ 12 + b.toNat / 2) / b.toNat
      exec (.usToMclk a b) s = .next (afterReply (decide (2 ^ 32 ≤ t)) (BitVec.ofNat 32 t) 0 0 s)) ∧
    (b.toNat = 0 → exec (.usToMclk a b) s = .next (afterFault 0x03 s))

/-- 40_timing_converter.md R105: ENC_TIMEOUT's result in the rule's closed form (`Nat.size` is bitlen), and its fault. -/
def Obligations.EncTimeoutResult : Prop :=
  ∀ (s : State) (a b : Word),
    decode ⟨0x04, a, b⟩ = .ok (.encTimeout a b) ∧
    (b.toNat = 0 →
      let e := Nat.size (a.toNat - 1) - 8
      exec (.encTimeout a b) s = .next (afterReply false (BitVec.ofNat 32 (e * 256 + (a.toNat - 1) / 2 ^ e)) 0 0 s)) ∧
    (b.toNat ≠ 0 → exec (.encTimeout a b) s = .next (afterFault 0x02 s))

/-- 40_timing_converter.md R106: DEC_TIMEOUT's result for every 16-bit encoding, canonical or not, and its fault. -/
def Obligations.DecTimeoutResult : Prop :=
  ∀ (s : State) (a b : Word),
    decode ⟨0x05, a, b⟩ = .ok (.decTimeout a b) ∧
    (a.toNat < 65536 → b.toNat = 0 →
      let t := a.toNat % 256 * 2 ^ (a.toNat / 256) + 1
      exec (.decTimeout a b) s = .next (afterReply (decide (2 ^ 32 ≤ t)) (BitVec.ofNat 32 t) 0 0 s)) ∧
    (65536 ≤ a.toNat ∨ b.toNat ≠ 0 → exec (.decTimeout a b) s = .next (afterFault 0x02 s))

/-- 30_encoding.md R72: ENC_TIMEOUT produces only canonical encodings; DEC_TIMEOUT accepts the others too. -/
def Obligations.EncodedTimeoutIsCanonical : Prop :=
  ∀ s : State,
    (∀ mclks : Word, ∃ reg : Word, exec (.encTimeout mclks 0) s = .next (afterReply false reg 0 0 s) ∧
      (reg = 0 ∨ reg.toNat < 256 ∨ (1 ≤ reg.toNat / 256 ∧ reg.toNat / 256 ≤ 24 ∧ 0x80 ≤ reg.toNat % 256))) ∧
    ∀ reg : Word, reg.toNat < 65536 →
      ∃ ovf v, exec (.decTimeout reg 0) s = .next (afterReply ovf v 0 0 s)

/-- 40_timing_converter.md R107: the round trip through the timeout encoding. It succeeds with OVF = 0 for every count;
a nonzero count comes back with the bits below its exponent dropped; it is exact exactly when those bits are 0, so for
1 to 256; and 0 comes back as 1. -/
def Obligations.TimeoutRoundTrip : Prop :=
  ∀ (s : State) (mclks : Word), ∃ reg v : Word,
    exec (.encTimeout mclks 0) s = .next (afterReply false reg 0 0 s) ∧
    exec (.decTimeout reg 0) (afterReply false reg 0 0 s) = .next (afterReply false v 0 0 s) ∧
    (mclks.toNat = 0 → v.toNat = 1) ∧
    (mclks.toNat ≠ 0 →
      let e := reg.toNat / 256
      v.toNat = (mclks.toNat - 1) / 2 ^ e * 2 ^ e + 1 ∧ v.toNat ≤ mclks.toNat ∧ mclks.toNat < v.toNat + 2 ^ e ∧
        (v = mclks ↔ (mclks.toNat - 1) % 2 ^ e = 0)) ∧
    (1 ≤ mclks.toNat → mclks.toNat ≤ 256 → reg.toNat / 256 = 0 ∧ v = mclks)

/-- 40_timing_converter.md R108: both conversions round half up before narrowing, and converting there and back differs
by at most mp / 8192 + 1/2. -/
def Obligations.ConversionsRoundHalfUp : Prop :=
  ∀ us mclks mp : Nat,
    mclkToUsExact mclks mp = ⌊(mclks * mp : ℚ) / 4096 + 1 / 2⌋₊ ∧
    (0 < mp →
      usToMclkExact us mp = ⌊(us * 4096 : ℚ) / mp + 1 / 2⌋₊ ∧
      |(mclkToUsExact (usToMclkExact us mp) mp : ℚ) - us| ≤ (mp : ℚ) / 8192 + 1 / 2)

/-- 00_scope.md R3: the response to a TC command depends only on its operands, and such a command writes no state but
FLT on a fault. -/
def Obligations.TimingConverterIsStateless : Prop :=
  ∀ (a b : Word) (i : Instr),
    i ∈ [Instr.macroPeriod a b, .mclkToUs a b, .usToMclk a b, .encTimeout a b, .decTimeout a b] →
    ∃ r, ∀ s : State, ∃ t, exec i s = .next t ∧ t.response = some r ∧ t.cap = s.cap ∧ t.cursor = s.cursor ∧
      t.port = s.port ∧ (r.code = 0x00 → t.flt = s.flt)

/-- 70_reset_and_hazards.md R186, duty 3, as a premise: where every conversion's macro period was returned by an earlier
MACRO_PERIOD with OVF = 0, no US_TO_MCLK of the session faults. -/
def Obligations.DutifulConversionsNeverDivideByZero : Prop :=
  ∀ session : List Exchange, AnsweredByBlock session → MacroPeriodFromBlock session →
    ∀ x ∈ session, x.command.cmd = 0x03 → x.response.code = 0x00

/-! ## Result decoder -/

/-- 41_result_decoder.md R120: RD_START sets CURSOR to 0, writes nothing else, leaves every CAP field holding no value,
is legal at any CURSOR, and is idempotent. -/
def Obligations.RdStartResult : Prop :=
  ∀ (s : State) (a b : Word),
    decode ⟨0x10, a, b⟩ = .ok (.rdStart a b) ∧
    (a.toNat = 0 → b.toNat = 0 → ∃ t, exec (.rdStart a b) s = .next t ∧
      t = afterReply false 0 0 0 { s with cursor := 0 } ∧ (∀ f, t.capValue f = none) ∧
      exec (.rdStart a b) t = .next t) ∧
    (a.toNat ≠ 0 ∨ b.toNat ≠ 0 → exec (.rdStart a b) s = .next (afterFault 0x02 s))

/-- 20_memory.md R42: which byte of CAP each offset fills; the seven discarded offsets write nothing. -/
def Obligations.MemWriteFillsCap : Prop :=
  ∀ (c : Cap) (x : Byte),
    c.memWrite 0 x = some { c with rangeStatus := some x } ∧
    c.memWrite 2 x = some { c with streamCount := some x } ∧
    c.memWrite 3 x = some { c with effSpads := ⟨some x, c.effSpads.lo⟩ } ∧
    c.memWrite 4 x = some { c with effSpads := ⟨c.effSpads.hi, some x⟩ } ∧
    c.memWrite 7 x = some { c with ambient := ⟨some x, c.ambient.lo⟩ } ∧
    c.memWrite 8 x = some { c with ambient := ⟨c.ambient.hi, some x⟩ } ∧
    c.memWrite 13 x = some { c with finalRange := ⟨some x, c.finalRange.lo⟩ } ∧
    c.memWrite 14 x = some { c with finalRange := ⟨c.finalRange.hi, some x⟩ } ∧
    c.memWrite 15 x = some { c with peakRate := ⟨some x, c.peakRate.lo⟩ } ∧
    c.memWrite 16 x = some { c with peakRate := ⟨c.peakRate.hi, some x⟩ } ∧
    ∀ off ∈ [1, 5, 6, 9, 10, 11, 12], c.memWrite off x = some c

/-- 41_result_decoder.md R121: RD_PUSH stores its byte at offset CURSOR, and there only; a discarded byte changes only
CURSOR; CURSOR and Y0 go up by one; and the two faults. -/
def Obligations.RdPushResult : Prop :=
  ∀ (s : State) (a b : Word),
    decode ⟨0x11, a, b⟩ = .ok (.rdPush a b) ∧
    (a.toNat < 256 → b.toNat = 0 → s.cursor.toNat < 17 → ∃ cap : Cap,
      exec (.rdPush a b) s =
        .next (afterReply false (BitVec.ofNat 32 (s.cursor.toNat + 1)) 0 0
          { s with cap := cap, cursor := BitVec.ofNat 5 (s.cursor.toNat + 1) }) ∧
      s.cap.memWrite s.cursor.toNat (BitVec.ofNat 8 a.toNat) = some cap ∧
      (s.cursor.toNat ∈ keptOffsets → cap.byteAt s.cursor.toNat = some (BitVec.ofNat 8 a.toNat)) ∧
      (∀ off, off ≠ s.cursor.toNat → cap.byteAt off = s.cap.byteAt off) ∧
      (s.cursor.toNat ∉ keptOffsets → cap = s.cap)) ∧
    (256 ≤ a.toNat ∨ b.toNat ≠ 0 → exec (.rdPush a b) s = .next (afterFault 0x02 s)) ∧
    (a.toNat < 256 → b.toNat = 0 → s.cursor.toNat = 17 → exec (.rdPush a b) s = .next (afterFault 0x04 s))

/-- Where CURSOR is 18 to 31, which no run reaches (10_state.md R25), a push with operands in range stops the model. The
model's choice (log 7). -/
def Obligations.PushBeyondTheBlockStops : Prop :=
  ∀ (s : State) (a b : Word), a.toNat < 256 → b.toNat = 0 → 17 < s.cursor.toNat →
    exec (.rdPush a b) s = .fault .noSuchOffset

/-- 41_result_decoder.md R122 and 30_encoding.md R78: RD_DECODE of a complete block returns the gain-corrected range,
the semantic status and the pass-through fields, packed, and writes no state; and the two faults. -/
def Obligations.RdDecodeResult : Prop :=
  ∀ (s : State) (a b : Word),
    decode ⟨0x12, a, b⟩ = .ok (.rdDecode a b) ∧
    (∀ raw sc spads ambient range peak : Nat, a.toNat = 0 → b.toNat = 0 → s.cursor.toNat = 17 →
      s.capValue .rangeStatus = some raw → s.capValue .streamCount = some sc → s.capValue .effSpads = some spads →
      s.capValue .ambient = some ambient → s.capValue .finalRange = some range → s.capValue .peakRate = some peak →
      exec (.rdDecode a b) s =
        .next (afterReply false
          (BitVec.ofNat 32 (raw * 2 ^ 24 + (mux raw sc).code.toNat * 2 ^ 16 + (range * 2011 + 1024) / 2048))
          (BitVec.ofNat 32 (ambient * 2 ^ 16 + peak))
          (BitVec.ofNat 32 (sc * 2 ^ 16 + spads)) s)) ∧
    (a.toNat ≠ 0 ∨ b.toNat ≠ 0 → exec (.rdDecode a b) s = .next (afterFault 0x02 s)) ∧
    (a.toNat = 0 → b.toNat = 0 → s.cursor.toNat ≠ 17 → exec (.rdDecode a b) s = .next (afterFault 0x05 s))

/-- RD_DECODE completes at CURSOR = 17 whatever CAP holds, writing no state. Where a byte was never written, which no
run reaches, its words rest on the free value of log 6; 93_implementation_defined.md K1. -/
def Obligations.RdDecodeCompletesAtSeventeen : Prop :=
  ∀ (s : State) (a b : Word), a.toNat = 0 → b.toNat = 0 → s.cursor.toNat = 17 →
    ∃ y0 y1 y2, exec (.rdDecode a b) s = .next (afterReply false y0 y1 y2 s)

/-- 41_result_decoder.md R124: the range-status multiplexer, row by row, with the semantic codes. -/
def Obligations.MultiplexerTable : Prop :=
  ∀ sc : Nat,
    (∀ raw ∈ [1, 2, 3, 17], (mux raw sc).code = 0x05) ∧ (mux 4 sc).code = 0x02 ∧ (mux 5 sc).code = 0x04 ∧
    (mux 6 sc).code = 0x01 ∧ (mux 7 sc).code = 0x07 ∧ (mux 8 sc).code = 0x03 ∧
    (sc = 0 → (mux 9 sc).code = 0x06) ∧ (sc ≠ 0 → (mux 9 sc).code = 0x00) ∧
    (mux 12 sc).code = 0x09 ∧ (mux 13 sc).code = 0x0D ∧ (mux 18 sc).code = 0x0A ∧
    ∀ raw, raw ∉ [1, 2, 3, 4, 5, 6, 7, 8, 9, 12, 13, 17, 18] → (mux raw sc).code = 0xFF

/-- 41_result_decoder.md R125: RD_MAP_STATUS applies the multiplexer to its operands, at any CURSOR, and its fault. -/
def Obligations.RdMapStatusResult : Prop :=
  ∀ (s : State) (a b : Word),
    decode ⟨0x13, a, b⟩ = .ok (.rdMapStatus a b) ∧
    (a.toNat < 256 → b.toNat < 256 →
      exec (.rdMapStatus a b) s =
        .next (afterReply false (BitVec.ofNat 32 (mux a.toNat b.toNat).code.toNat) 0 0 s)) ∧
    (256 ≤ a.toNat ∨ 256 ≤ b.toNat → exec (.rdMapStatus a b) s = .next (afterFault 0x02 s))

/-- 41_result_decoder.md R126 and R123: RD_GAIN applies the distance correction to its operand, and its fault. -/
def Obligations.RdGainResult : Prop :=
  ∀ (s : State) (a b : Word),
    decode ⟨0x14, a, b⟩ = .ok (.rdGain a b) ∧
    (a.toNat < 65536 → b.toNat = 0 →
      exec (.rdGain a b) s = .next (afterReply false (BitVec.ofNat 32 ((a.toNat * 2011 + 1024) / 2048)) 0 0 s)) ∧
    (65536 ≤ a.toNat ∨ b.toNat ≠ 0 → exec (.rdGain a b) s = .next (afterFault 0x02 s))

/-- 41_result_decoder.md R123, 30_encoding.md R76: GAIN's formula and worked values; it is
floor(raw_mm * 2011 / 2048 + 1/2), and a 16-bit range gives at most 64351, which fits 16 bits. -/
def Obligations.GainRoundsAndFits : Prop :=
  (∀ rawMm : Nat, gain rawMm = (rawMm * 2011 + 1024) / 2048 ∧
    gain rawMm = ⌊(rawMm * 2011 : ℚ) / 2048 + 1 / 2⌋₊ ∧ (rawMm < 2 ^ 16 → gain rawMm ≤ 64351)) ∧
  gain 0 = 0 ∧ gain 1 = 1 ∧ gain 2000 = 1964 ∧ gain 65535 = 64351

/-- 70_reset_and_hazards.md R187: while the block is not complete no command's response depends on what CAP holds, so the
host cannot read part of a block. -/
def Obligations.PartialBlockIsInvisible : Prop :=
  ∀ (s : State) (cap' : Cap) (c : Command), s.cursor.toNat < 17 →
    responseOf (runCommand c s) = responseOf (runCommand c { s with cap := cap' })

/-- 70_reset_and_hazards.md R188: a push after a complete block captures nothing, raises RD_OVERRUN, and a later
RD_DECODE still returns that block. -/
def Obligations.OverrunProtectsTheBlock : Prop :=
  ∀ (s : State) (a : Word), a.toNat < 256 → s.cursor.toNat = 17 →
    ∃ t, exec (.rdPush a 0) s = .next t ∧ t = afterFault 0x04 s ∧
      responseOf (exec (.rdDecode 0 0) t) = responseOf (exec (.rdDecode 0 0) s)

/-- 30_encoding.md R80, 20_memory.md R41 and 41_result_decoder.md R122: RD_LOAD of any 17 bytes and then RD_DECODE, from
any state, return the fields those bytes make by the result-block layout; the bytes at offsets 1, 5, 6, 9, 10, 11 and 12
do not occur; FLT is as before. -/
def Obligations.LoadedBlockDecodes : Prop :=
  ∀ (s : State) (x : Vector Byte 17) (rest : List HostInput),
    s.port = (rdLoad x ++ [encode (.rdDecode 0 0)]).map .command ++ rest →
    ∃ t : State, Sys2Proof.core.run 19 s = .next t ∧ t.cursor.toNat = 17 ∧ t.flt = s.flt ∧ t.port = rest ∧
      t.response = some
        { code := 0x00
          ovf := false
          y0 := BitVec.ofNat 32 (x[0].toNat * 2 ^ 24 + (mux x[0].toNat x[2].toNat).code.toNat * 2 ^ 16 +
            ((x[13].toNat * 256 + x[14].toNat) * 2011 + 1024) / 2048)
          y1 := BitVec.ofNat 32 ((x[7].toNat * 256 + x[8].toNat) * 2 ^ 16 + (x[15].toNat * 256 + x[16].toNat))
          y2 := BitVec.ofNat 32 (x[2].toNat * 2 ^ 16 + (x[3].toNat * 256 + x[4].toNat)) }

/-! ## Status, faults, invariants -/

/-- 42_status.md R150: STATUS returns FLT and CURSOR and changes neither, and its fault. -/
def Obligations.StatusResult : Prop :=
  ∀ (s : State) (a b : Word),
    decode ⟨0x20, a, b⟩ = .ok (.status a b) ∧
    (a.toNat = 0 → b.toNat = 0 →
      exec (.status a b) s = .next (afterReply false (BitVec.ofNat 32 (s.cursor.toNat * 256 + s.flt.toNat)) 0 0 s)) ∧
    (a.toNat ≠ 0 ∨ b.toNat ≠ 0 → exec (.status a b) s = .next (afterFault 0x02 s))

/-- 60_exceptions.md R162: a faulting command writes its code and zero words, and no state except FLT, and the block
then accepts any next command. -/
def Obligations.FaultWritesOnlyFlt : Prop :=
  ∀ (s t : State) (c : Command) (r : Response), runCommand c s = .next t → t.response = some r → r.code ≠ 0x00 →
    t = afterFault r.code s ∧ (s.CursorLegal → ∀ next : Command, ∃ u, runCommand next t = .next u)

/-- 60_exceptions.md R163: the first fault latches, a later one does not, and only a reset clears FLT. -/
def Obligations.FirstFaultSticks : Prop :=
  (∀ (s t : State) (c : Command) (r : Response), runCommand c s = .next t → t.response = some r → r.code ≠ 0x00 →
    (s.flt = 0x00 → t.flt = r.code) ∧ (s.flt ≠ 0x00 → t.flt = s.flt)) ∧
  ∀ s t : State, step s = .next t → s.flt ≠ 0x00 → s.port.head? ≠ some .reset → t.flt = s.flt

/-- 60_exceptions.md R164: the priority of faults, for every command: ILLEGAL_OP, then OPERAND_RANGE, then the command's
own condition. -/
def Obligations.FaultPriority : Prop :=
  ∀ (s : State) (c : Command),
    (c.cmd ∉ opcodeMap → runCommand c s = .next (afterFault 0x01 s)) ∧
    ∀ i, decode c = .ok i →
      (i.wellFormed = false → runCommand c s = .next (afterFault 0x02 s)) ∧
      (i.wellFormed = true →
        (∀ a, i = .macroPeriod a 0 → runCommand c s = .next (afterFault 0x03 s)) ∧
        (∀ a, i = .usToMclk a 0 → runCommand c s = .next (afterFault 0x03 s)) ∧
        (∀ a b, i = .rdPush a b → s.cursor.toNat = 17 → runCommand c s = .next (afterFault 0x04 s)) ∧
        (∀ a b, i = .rdDecode a b → s.cursor.toNat ≠ 17 → runCommand c s = .next (afterFault 0x05 s)))

/-- 60_exceptions.md R160, R161: a command with operands in range faults only for its own condition: apart from a zero
divisor, a push at CURSOR 17 and a decode below it, it succeeds. -/
def Obligations.InRangeCommandsSucceed : Prop :=
  ∀ (s : State) (i : Instr), s.CursorLegal → i.wellFormed = true →
    (∀ a, i ≠ .macroPeriod a 0) → (∀ a, i ≠ .usToMclk a 0) →
    (∀ a b, i = .rdPush a b → s.cursor.toNat ≠ 17) → (∀ a b, i = .rdDecode a b → s.cursor.toNat = 17) →
    ∃ t r, exec i s = .next t ∧ t.response = some r ∧ r.code = 0x00 ∧ t.flt = s.flt

/-- 10_state.md R25, R26, R23: who writes CURSOR, FLT and CAP in a step: a reset; RD_START and a successful RD_PUSH
(CURSOR); RD_PUSH (CAP); a faulting command while FLT is 0 (FLT). -/
def Obligations.WritersOfTheState : Prop :=
  ∀ s t : State, step s = .next t →
    s.port.head? = some .reset ∨
    ((t.cursor = s.cursor ∨
        ∃ c, s.port.head? = some (.command c) ∧
          (c.cmd = 0x10 ∧ t.cursor = 0 ∨
            c.cmd = 0x11 ∧ s.cursor.toNat < 17 ∧ t.cursor.toNat = s.cursor.toNat + 1)) ∧
      (t.flt = s.flt ∨ s.flt = 0x00 ∧ ∃ c r, s.port.head? = some (.command c) ∧ t.response = some r ∧
        r.code ≠ 0x00 ∧ t.flt = r.code) ∧
      (t.cap = s.cap ∨ ∃ c, s.port.head? = some (.command c) ∧ c.cmd = 0x11))

/-- 20_memory.md R47: any command but RD_PUSH, repeated, gives the same response. -/
def Obligations.RepeatedCommandsAnswerTheSame : Prop :=
  ∀ (s t : State) (i : Instr), (∀ a b, i ≠ .rdPush a b) → exec i s = .next t →
    ∃ u, exec i t = .next u ∧ u.response = t.response

/-- 10_state.md R22: no command reads the response of an earlier command, nor the inputs that wait behind it. -/
def Obligations.CommandsIgnoreEarlierResponses : Prop :=
  ∀ (s : State) (c : Command) (r : Option Response) (p : List HostInput),
    responseOf (runCommand c { s with response := r, port := p }) = responseOf (runCommand c s)

/-- The invariant holds right after reset: CURSOR and FLT legal (10_state.md R25, R26), and every kept byte below
CURSOR written (the model's reading of 10_state.md R24, log 5). -/
def Obligations.ResetMeetsTheInvariant : Prop := State.reset.Inv

/-- Every step from a state with the invariant keeps it: CURSOR stays 0 to 17 (10_state.md R25), FLT stays a code of
60_exceptions.md R160 (10_state.md R26), and every kept byte below CURSOR stays written (log 5). -/
def Obligations.StepKeepsTheInvariant : Prop := ∀ s t : State, s.Inv → step s = .next t → t.Inv

/-- 10_state.md R24: in a state with the invariant, a field of CAP holds a value exactly when every offset that fills it
is below CURSOR, so all six do at CURSOR = 17. That CURSOR says which bytes are new is the model's reading (log 5). -/
def Obligations.FieldsHoldValuesBelowCursor : Prop :=
  ∀ (s : State) (f : CapField), s.Inv →
    ((s.capValue f).isSome = true ↔ f.lastOffset < s.cursor.toNat) ∧
    (s.cursor.toNat = 17 → (s.capValue f).isSome = true)

/-! ## Pseudo-instructions and instances -/

/-- 30_encoding.md R80: TIMEOUT_FROM_US is US_TO_MCLK and then ENC_TIMEOUT of its Y0, and US_FROM_TIMEOUT is DEC_TIMEOUT
and then MCLK_TO_US of its Y0: the responses of both, in order. -/
def Obligations.TwoStepMacrosAnswerBoth : Prop :=
  ∀ (s : State) (x mp : Word),
    (mp.toNat ≠ 0 → ∃ r1 r2 s1 s2, exec (.usToMclk x mp) s = .next s1 ∧ s1.response = some r1 ∧
      exec (.encTimeout r1.y0 0) s1 = .next s2 ∧ s2.response = some r2 ∧
      (timeoutFromUs x mp).run s = some (r1, r2, s2) ∧ r1.code = 0x00 ∧ r2.code = 0x00) ∧
    (x.toNat < 65536 → ∃ r1 r2 s1 s2, exec (.decTimeout x 0) s = .next s1 ∧ s1.response = some r1 ∧
      exec (.mclkToUs r1.y0 mp) s1 = .next s2 ∧ s2.response = some r2 ∧
      (usFromTimeout x mp).run s = some (r1, r2, s2) ∧ r1.code = 0x00 ∧ r2.code = 0x00)

/-- 60_exceptions.md R171: instances share no state. A step of one leaves every other as it was, and steps of two
different instances may be taken in either order with the same outcome. -/
def Obligations.InstancesAreIndependent : Prop :=
  ∀ (n : Nat) (j k : Fin n) (blocks afterJ afterK : Instances n), j ≠ k →
    stepInstance j blocks = .next afterJ → stepInstance k blocks = .next afterK →
    afterJ.get k = blocks.get k ∧
    ∃ both, stepInstance k afterJ = .next both ∧ stepInstance j afterK = .next both
end

