-- ==== Sys2Proof/Laws/Operands.lean ====
section
/-! SUPPORT. The operand fields in terms of the operand's number, and what CAP's reads give. -/
namespace Sys2Proof.Machine

theorem field_eq_mod (w : Word) (hi : Nat) : field w hi 0 = w.toNat % 2 ^ (hi + 1) := by
  simp [field, bits]

/-- The whole word as a number. -/
@[simp] theorem field_whole (w : Word) : field w 31 0 = w.toNat := by
  rw [field_eq_mod]
  exact Nat.mod_eq_of_lt w.isLt

/-- A low field of a word that fits it is the word's number. -/
theorem field_of_fits {w : Word} {hi : Nat} (h : w.toNat < 2 ^ (hi + 1)) : field w hi 0 = w.toNat := by
  rw [field_eq_mod, Nat.mod_eq_of_lt h]

/-- The must-be-0 bits from `lo` up are 0 exactly when the word fits the field below them. -/
theorem zeroBits_iff (w : Word) {lo : Nat} (h : lo ≤ 32) : zeroBits w 31 lo = true ↔ w.toNat < 2 ^ lo := by
  have hw : w.toNat < 2 ^ lo * 2 ^ (32 - lo) := by
    rw [← Nat.pow_add, Nat.add_sub_cancel' h]
    exact w.isLt
  have hd : w.toNat / 2 ^ lo < 2 ^ (32 - lo) := Nat.div_lt_of_lt_mul hw
  simp only [zeroBits, field, bits, beq_iff_eq]
  rw [Nat.mod_eq_of_lt (by simpa using hd), Nat.div_eq_zero_iff]
  simp

@[simp] theorem readCapByte_some (off : Nat) (b : Byte) : readCapByte off (some b) = b := rfl

/-- A 16-bit field whose two bytes are written reads as the number they make, the high byte first. -/
theorem readCapField16_of_value {off n : Nat} {f : Field16} (h : f.value? = some n) :
    (readCapField16 off f).toNat = n := by
  obtain ⟨_ | hi, _ | lo⟩ := f <;> simp [Field16.value?] at h
  have hl := lo.isLt
  simp only [readCapField16, readCapByte_some, BitVec.toNat_append]
  rw [← h, Nat.shiftLeft_eq, ← Nat.shiftLeft_eq, ← Nat.shiftLeft_add_eq_or_of_lt hl, Nat.shiftLeft_eq]

end Sys2Proof.Machine
end

