-- ==== Sys2Proof/Laws/Ops.lean ====
section
/-! SUPPORT. What each shared operation can do, once: the lemmas to cite instead of unfolding the operation. -/
namespace Sys2Proof.Machine

/-- Taking a fault: what it answers, whole (60_exceptions.md R162, R163). -/
theorem raiseFault_next {f : FaultCause} {s t : State} (h : raiseFault f s = .next t) :
    t.cap = s.cap ∧ t.cursor = s.cursor ∧ t.port = s.port ∧ t.flt = latchFault f s.flt ∧
      t.response = some (faultResponse f) := by
  cases h
  exact ⟨rfl, rfl, rfl, rfl, rfl⟩

/-- A fault's code is never the success code (60_exceptions.md R160). -/
theorem FaultCause.code_ne_zero (f : FaultCause) : f.code ≠ 0x00 := by cases f <;> decide

/-- A success reply: what it answers, whole. -/
theorem reply_next {y0 : Word} {s t : State} (h : reply y0 s = .next t) : t = s.respond (okResponse y0 0 0) := by
  cases h
  rfl

/-- A narrowed reply: what it answers, whole (40_timing_converter.md R100). -/
theorem replyNarrowed_next {n : Nat} {s t : State} (h : replyNarrowed n s = .next t) :
    t = s.respond { code := successCode, ovf := overflows32 n, y0 := trunc32 n, y1 := 0, y2 := 0 } := by
  cases h
  rfl

/-- The operand check: either the operands are in range and the command goes on, or it faults (60_exceptions.md R164). -/
theorem guardOperands_next {ok : Bool} {s t : State} {k : Answer} (h : guardOperands ok s k = .next t) :
    (ok = true ∧ k = .next t) ∨ (ok = false ∧ raiseFault .operandRange s = .next t) := by
  cases ok
  · exact .inr ⟨rfl, h⟩
  · exact .inl ⟨rfl, h⟩

/-- The result-block space has offsets 0 to 16 and no other (20_memory.md R40). -/
theorem memWrite_isSome_iff (off : Nat) (x : Byte) (c : Cap) : (c.memWrite off x).isSome = true ↔ off < 17 := by
  unfold Cap.memWrite
  split <;> simp
  by_contra hlt
  interval_cases off <;> contradiction

/-- A kept offset reads back as written (20_memory.md R42). -/
theorem memWrite_byteAt_same {off : Nat} {x : Byte} {c c' : Cap} (h : c.memWrite off x = some c')
    (hk : off ∈ keptOffsets) : c'.byteAt off = some x := by
  simp only [keptOffsets, List.mem_cons, List.not_mem_nil, or_false] at hk
  rcases hk with rfl | rfl | rfl | rfl | rfl | rfl | rfl | rfl | rfl | rfl <;> cases h <;> rfl

/-- Every other offset reads as before (20_memory.md R42). -/
theorem memWrite_byteAt_other {off o : Nat} {x : Byte} {c c' : Cap} (h : c.memWrite off x = some c') (ho : o ≠ off) :
    c'.byteAt o = c.byteAt o := by
  unfold Cap.memWrite at h
  split at h <;> cases h <;> first | rfl | (unfold Cap.byteAt; split <;> first | rfl | exact absurd rfl ho)

/-- A discarded byte writes nothing (20_memory.md R42). -/
theorem memWrite_discarded {off : Nat} {x : Byte} {c c' : Cap} (h : c.memWrite off x = some c')
    (hk : off ∉ keptOffsets) : c' = c := by
  unfold Cap.memWrite at h
  split at h <;> cases h <;> first | rfl | exact absurd (by decide) hk

end Sys2Proof.Machine
end

