-- ==== Sys2Proof/Laws/Exec.lean ====
section
/-! SUPPORT. What a command and a step can do, once. -/
namespace Sys2Proof.Machine

/-- The state after a fault, and nothing else (60_exceptions.md R162, R163). -/
def FaultedFrom (s t : State) : Prop := ∃ f, raiseFault f s = .next t

/-- The state after a command that raised no fault: FLT and the port stand, CODE is success, and CAP and CURSOR change
only by RD_START and RD_PUSH (10_state.md R23, R25, R26). -/
def SucceededFrom (i : Instr) (s t : State) : Prop :=
  t.flt = s.flt ∧ t.port = s.port ∧ (∃ r, t.response = some r ∧ r.code = successCode) ∧
    ((t.cap = s.cap ∧ t.cursor = s.cursor) ∨
      (∃ a b, i = .rdStart a b ∧ t.cap = s.cap ∧ t.cursor = 0) ∨
      (∃ a b x, i = .rdPush a b ∧ s.cursor.toNat < 17 ∧ s.cap.memWrite s.cursor.toNat x = some t.cap ∧
        t.cursor = s.cursor + 1))

theorem succeededFrom_respond (i : Instr) (s : State) {r : Response} (hr : r.code = successCode) :
    SucceededFrom i s (s.respond r) := ⟨rfl, rfl, ⟨r, rfl, hr⟩, .inl ⟨rfl, rfl⟩⟩

/-- If a command answers a next state, it faulted or succeeded. -/
theorem exec_next {i : Instr} {s t : State} (h : exec i s = .next t) : FaultedFrom s t ∨ SucceededFrom i s t := by
  cases i with
  | macroPeriod a b =>
    rcases guardOperands_next h with ⟨-, h⟩ | ⟨-, h⟩
    · split at h
      · exact .inl ⟨_, h⟩
      · exact .inr (replyNarrowed_next h ▸ succeededFrom_respond _ _ rfl)
    · exact .inl ⟨_, h⟩
  | mclkToUs a b => exact .inr (replyNarrowed_next h ▸ succeededFrom_respond _ _ rfl)
  | usToMclk a b =>
    change execUsToMclk a b s = .next t at h
    unfold execUsToMclk at h
    split at h
    · exact .inl ⟨_, h⟩
    · exact .inr (replyNarrowed_next h ▸ succeededFrom_respond _ _ rfl)
  | decTimeout a b =>
    rcases guardOperands_next h with ⟨-, h⟩ | ⟨-, h⟩
    · exact .inr (replyNarrowed_next h ▸ succeededFrom_respond _ _ rfl)
    · exact .inl ⟨_, h⟩
  | encTimeout a b | rdMapStatus a b | rdGain a b | status a b =>
    rcases guardOperands_next h with ⟨-, h⟩ | ⟨-, h⟩
    · exact .inr (reply_next h ▸ succeededFrom_respond _ _ rfl)
    · exact .inl ⟨_, h⟩
  | rdStart a b =>
    rcases guardOperands_next h with ⟨-, h⟩ | ⟨-, h⟩
    · cases reply_next h
      exact .inr ⟨rfl, rfl, ⟨_, rfl, rfl⟩, .inr (.inl ⟨a, b, rfl, rfl, rfl⟩)⟩
    · exact .inl ⟨_, h⟩
  | rdDecode a b =>
    rcases guardOperands_next h with ⟨-, h⟩ | ⟨-, h⟩
    · split at h
      · cases h
        exact .inr (succeededFrom_respond _ _ rfl)
      · exact .inl ⟨_, h⟩
    · exact .inl ⟨_, h⟩
  | rdPush a b =>
    rcases guardOperands_next h with ⟨-, h⟩ | ⟨-, h⟩
    · split at h
      · exact .inl ⟨_, h⟩
      · split at h
        · rename_i hcap
          cases reply_next h
          have hlt := (memWrite_isSome_iff _ _ _).mp (Option.isSome_of_mem hcap)
          exact .inr ⟨rfl, rfl, ⟨_, rfl, rfl⟩, .inr (.inr ⟨a, b, _, rfl, hlt, hcap, rfl⟩)⟩
        · cases h
    · exact .inl ⟨_, h⟩

/-- A command stops the model in one case only: a push with CURSOR above 17 (log 7). -/
theorem exec_next_of_cursorLegal (i : Instr) {s : State} (hs : s.CursorLegal) : ∃ t, exec i s = .next t := by
  have guarded : ∀ ok k, (∃ t, k = .next t) → ∃ t, guardOperands ok s k = .next t := fun ok k hk => by
    cases ok
    · exact ⟨_, rfl⟩
    · exact hk
  cases i with
  | macroPeriod a b => exact guarded _ _ (by split <;> exact ⟨_, rfl⟩)
  | mclkToUs a b => exact ⟨_, rfl⟩
  | usToMclk a b =>
    change ∃ t, execUsToMclk a b s = .next t
    unfold execUsToMclk
    split <;> exact ⟨_, rfl⟩
  | decTimeout a b | encTimeout a b | rdMapStatus a b | rdGain a b | status a b | rdStart a b =>
    exact guarded _ _ ⟨_, rfl⟩
  | rdDecode a b => exact guarded _ _ (by split <;> exact ⟨_, rfl⟩)
  | rdPush a b =>
    refine guarded _ _ ?_
    split
    · exact ⟨_, rfl⟩
    · rename_i hne
      split
      · exact ⟨_, rfl⟩
      · rename_i hnone
        have hlt : s.cursor.toNat < 17 := Nat.lt_of_le_of_ne hs hne
        have := (memWrite_isSome_iff _ (BitVec.ofNat 8 (field a 7 0)) s.cap).mpr hlt
        rw [hnone] at this
        cases this

/-- What running a command can do: its instruction's effect, or ILLEGAL_OP (30_encoding.md R64). -/
theorem runCommand_next {c : Command} {s t : State} (h : runCommand c s = .next t) :
    FaultedFrom s t ∨ ∃ i, decode c = .ok i ∧ SucceededFrom i s t := by
  unfold runCommand at h
  split at h
  · rename_i i hi
    exact (exec_next h).imp id fun hs => ⟨i, hi, hs⟩
  · exact .inl ⟨_, h⟩

/-- What a step can do: wait, reset, or run the oldest command of the port. -/
theorem step_next {s t : State} (h : step s = .next t) :
    (s.port = [] ∧ t = s) ∨
      (∃ rest, s.port = .reset :: rest ∧ t = { State.reset with port := rest }) ∨
      ∃ c rest, s.port = .command c :: rest ∧ runCommand c { s with port := rest } = .next t := by
  unfold step takeInput at h
  split at h
  · cases h
    exact .inl ⟨by assumption, rfl⟩
  · exact .inr (.inr ⟨_, _, by assumption, h⟩)
  · cases h
    exact .inr (.inl ⟨_, by assumption, rfl⟩)

/-- A run of one more step that answers a next state goes on from there. -/
theorem run_succ_of_step (M : Host.Core) {k : Nat} {s t : M.State} (h : M.step s = .next t) :
    M.run (k + 1) s = M.run k t := by
  simp [Host.Core.run, h]

end Sys2Proof.Machine
end

