-- ==== Sys2Proof/Laws/PerInstr.lean ====
section
/-! SUPPORT. The statements made of every instruction as a term, one lemma per constructor (LAWS.json). -/
namespace Sys2Proof.Laws

/-- The decoder reads back the command that the encoder writes. -/
def DecodeEncode.Statement (i : Instr) : Prop := decode (encode i) = .ok i

theorem DecodeEncode.macroPeriod (a b : Word) : Statement (.macroPeriod a b) := rfl
theorem DecodeEncode.mclkToUs (a b : Word) : Statement (.mclkToUs a b) := rfl
theorem DecodeEncode.usToMclk (a b : Word) : Statement (.usToMclk a b) := rfl
theorem DecodeEncode.encTimeout (a b : Word) : Statement (.encTimeout a b) := rfl
theorem DecodeEncode.decTimeout (a b : Word) : Statement (.decTimeout a b) := rfl
theorem DecodeEncode.rdStart (a b : Word) : Statement (.rdStart a b) := rfl
theorem DecodeEncode.rdPush (a b : Word) : Statement (.rdPush a b) := rfl
theorem DecodeEncode.rdDecode (a b : Word) : Statement (.rdDecode a b) := rfl
theorem DecodeEncode.rdMapStatus (a b : Word) : Statement (.rdMapStatus a b) := rfl
theorem DecodeEncode.rdGain (a b : Word) : Statement (.rdGain a b) := rfl
theorem DecodeEncode.status (a b : Word) : Statement (.status a b) := rfl

/-- Each bit of the 72-bit string is a bit of CMD, A or B (log 8). -/
theorem command_toBits_getLsbD (c : Command) (j : Nat) :
    c.toBits.getLsbD j =
      if j < 8 then c.cmd.getLsbD j else if j < 40 then c.a.getLsbD (j - 8) else c.b.getLsbD (j - 40) := by
  change (c.b ++ c.a ++ c.cmd : BitVec (32 + 32 + 8)).getLsbD j = _
  rw [BitVec.getLsbD_append, BitVec.getLsbD_append]
  have h : j - 8 - 32 = j - 40 := by omega
  have h' : j < 40 ↔ j < 8 ∨ j - 8 < 32 := by omega
  by_cases h8 : j < 8 <;> by_cases h40 : j - 8 < 32 <;> simp [h8, h40, h, h']

/-- A command read from its 72-bit string is the command laid out in it (log 8). -/
theorem command_ofBits_toBits (c : Command) : Command.ofBits c.toBits = c := by
  obtain ⟨cmd, a, b⟩ := c
  simp only [Command.ofBits, Command.mk.injEq]
  refine ⟨?_, ?_, ?_⟩ <;>
    · ext i hi
      have h8 : ¬ 8 + i < 8 := by omega
      have h40 : ¬ 40 + i < 8 ∧ ¬ 40 + i < 40 := by omega
      simp [command_toBits_getLsbD, hi, h8, h40]
      try omega

/-- The 72-bit string is made of nothing but its command (log 8). -/
theorem command_toBits_ofBits (w : BitVec 72) : (Command.ofBits w).toBits = w := by
  ext j hj
  rw [← BitVec.getLsbD_eq_getElem, command_toBits_getLsbD, ← BitVec.getLsbD_eq_getElem]
  by_cases h8 : j < 8
  · simp [Command.ofBits, h8]
  · by_cases h40 : j < 40
    · have : 8 + (j - 8) = j := by omega
      have : j - 8 < 32 := by omega
      simp [Command.ofBits, *]
    · have : 40 + (j - 40) = j := by omega
      have : j - 40 < 32 := by omega
      simp [Command.ofBits, *]

end Sys2Proof.Laws
end

