-- ==== Sys2Proof/Laws/State.lean ====
section
/-! SUPPORT. One lemma per field per update of State, so that no proof unfolds a record update. -/
namespace Sys2Proof.Machine

@[simp] theorem respond_cap (r : Response) (s : State) : (s.respond r).cap = s.cap := rfl
@[simp] theorem respond_cursor (r : Response) (s : State) : (s.respond r).cursor = s.cursor := rfl
@[simp] theorem respond_flt (r : Response) (s : State) : (s.respond r).flt = s.flt := rfl
@[simp] theorem respond_port (r : Response) (s : State) : (s.respond r).port = s.port := rfl
@[simp] theorem respond_response (r : Response) (s : State) : (s.respond r).response = some r := rfl

@[simp] theorem hostReset_cap (s : State) : s.hostReset.cap = Cap.empty := rfl
@[simp] theorem hostReset_cursor (s : State) : s.hostReset.cursor = 0 := rfl
@[simp] theorem hostReset_flt (s : State) : s.hostReset.flt = 0 := rfl
@[simp] theorem hostReset_port (s : State) : s.hostReset.port = s.port := rfl
@[simp] theorem hostReset_response (s : State) : s.hostReset.response = none := rfl

@[simp] theorem presentNext_cap (c : Command) (s : State) : (s.presentNext c).cap = s.cap := rfl
@[simp] theorem presentNext_cursor (c : Command) (s : State) : (s.presentNext c).cursor = s.cursor := rfl
@[simp] theorem presentNext_flt (c : Command) (s : State) : (s.presentNext c).flt = s.flt := rfl
@[simp] theorem presentNext_port (c : Command) (s : State) : (s.presentNext c).port = .command c :: s.port := rfl
@[simp] theorem presentNext_response (c : Command) (s : State) : (s.presentNext c).response = s.response := rfl

@[simp] theorem issue_cap (x : HostInput) (s : State) : (s.issue x).cap = s.cap := rfl
@[simp] theorem issue_cursor (x : HostInput) (s : State) : (s.issue x).cursor = s.cursor := rfl
@[simp] theorem issue_flt (x : HostInput) (s : State) : (s.issue x).flt = s.flt := rfl
@[simp] theorem issue_port (x : HostInput) (s : State) : (s.issue x).port = s.port ++ [x] := rfl
@[simp] theorem issue_response (x : HostInput) (s : State) : (s.issue x).response = s.response := rfl

end Sys2Proof.Machine
end

