-- ==== Sys2Proof/Laws/TimingConverter.lean ====
section
/-! SUPPORT. What the encoding loop of 40_timing_converter.md R105 computes. -/
namespace Sys2Proof.Machine

/-- The loop shifts right until 8 bits are left or its fuel is used up, and counts its shifts in the exponent. -/
theorem encodeLoop_eq (fuel ls e : Nat) :
    ∃ k, encodeLoop fuel ls e = (e + k, ls / 2 ^ k) ∧ (ls / 2 ^ k ≤ 0xFF ∨ k = fuel) ∧
      (∀ j, j < k → 0xFF < ls / 2 ^ j) := by
  induction fuel generalizing ls e with
  | zero => exact ⟨0, by simp [encodeLoop], .inr rfl, by simp⟩
  | succ fuel ih =>
    by_cases h : 0xFF < ls
    · obtain ⟨k, hk, hfit, hbig⟩ := ih (ls >>> 1) (e + 1)
      have hpow : ∀ j, ls >>> 1 / 2 ^ j = ls / 2 ^ (j + 1) := fun j => by
        rw [Nat.shiftRight_eq_div_pow, Nat.div_div_eq_div_mul, ← Nat.pow_add, Nat.add_comm 1 j]
      refine ⟨k + 1, ?_, ?_, ?_⟩
      · rw [encodeLoop, if_pos h, hk, hpow]
        simp [Nat.add_assoc, Nat.add_comm 1 k]
      · rw [← hpow]
        exact hfit.imp id (congrArg (· + 1))
      · rintro (_ | j) hj
        · simpa using h
        · rw [← hpow]
          exact hbig j (by omega)
    · exact ⟨0, by simp [encodeLoop, h], .inl (by simpa using h), by simp⟩

/-- For a nonzero 32-bit count the mantissa fits 8 bits and the exponent is the smallest that makes it fit, at most 24
(30_encoding.md R72, 40_timing_converter.md R105). -/
theorem encodeFields_spec {n : Nat} (h : n < 2 ^ 32) :
    (encodeFields n).2 = (n - 1) / 2 ^ (encodeFields n).1 ∧ (encodeFields n).2 ≤ 0xFF ∧ (encodeFields n).1 ≤ 24 ∧
      ∀ j, j < (encodeFields n).1 → 0xFF < (n - 1) / 2 ^ j := by
  obtain ⟨k, hk, hfit, hbig⟩ := encodeLoop_eq 24 (n - 1) 0
  have hk24 : k ≤ 24 := by
    by_contra hc
    have := hbig 24 (by omega)
    have : (n - 1) / 2 ^ 24 < 256 := Nat.div_lt_of_lt_mul (by omega)
    omega
  have hle : (n - 1) / 2 ^ k ≤ 0xFF := by
    rcases hfit with h' | rfl
    · exact h'
    · have : (n - 1) / 2 ^ 24 < 256 := Nat.div_lt_of_lt_mul (by omega)
      omega
  unfold encodeFields
  rw [hk]
  simpa using ⟨hle, hk24, hbig⟩

end Sys2Proof.Machine
end

