-- ==== Sys2Proof/Tests/Slice0.lean ====
section
/-! SUPPORT. Tests. Expected results come from the spec: its encodings (30_encoding.md R63, R65) and the vectors of
95_test_vectors.md, named at each theorem. The witnesses at the end meet the hypotheses of the statements. -/
namespace Sys2Proof.Tests
open Sys2Proof.Machine Sys2Proof.Statements Sys2Proof.Safety

/-! ## Syntax and encoding -/

/-- An ill-formed term for each operand check of 30_encoding.md R65. -/
theorem test_wellFormed_refuses :
    [Instr.macroPeriod 0x100 1, .macroPeriod 0 0x10000, .encTimeout 5 1, .decTimeout 0x10000 0, .decTimeout 0 1,
      .rdStart 1 0, .rdStart 0 1, .rdPush 0x100 0, .rdPush 0 1, .rdDecode 1 0, .rdDecode 0 1, .rdMapStatus 0x100 0,
      .rdMapStatus 0 0x100, .rdGain 0x10000 0, .rdGain 0 1, .status 1 0, .status 0 1].all
      (fun i => !i.wellFormed) = true := by decide

/-- The largest operands of each field are well formed (30_encoding.md R65). -/
theorem test_wellFormed_accepts :
    [Instr.macroPeriod 0xFF 0xFFFF, .mclkToUs 0xFFFFFFFF 0xFFFFFFFF, .usToMclk 0xFFFFFFFF 0xFFFFFFFF,
      .encTimeout 0xFFFFFFFF 0, .decTimeout 0xFFFF 0, .rdStart 0 0, .rdPush 0xFF 0, .rdDecode 0 0,
      .rdMapStatus 0xFF 0xFF, .rdGain 0xFFFF 0, .status 0 0].all Instr.wellFormed = true := by decide

/-! One word per row, written out as B, A and CMD. -/
theorem test_decode_macroPeriod : decodeTableWord 72 0x0000B0000000000F01 = some (.macroPeriod 0x0F 0xB000) := by decide
theorem test_decode_mclkToUs : decodeTableWord 72 0x00068B9E000000E502 = some (.mclkToUs 229 428958) := by decide
theorem test_decode_usToMclk : decodeTableWord 72 0x00068B9E00005DC003 = some (.usToMclk 24000 428958) := by decide
theorem test_decode_encTimeout : decodeTableWord 72 0x00000000000000E504 = some (.encTimeout 229 0) := by decide
theorem test_decode_decTimeout : decodeTableWord 72 0x00000000000000E405 = some (.decTimeout 0xE4 0) := by decide
theorem test_decode_rdStart : decodeTableWord 8 0x10 = some (.rdStart 0 0) := by decide
theorem test_decode_rdPush : decodeTableWord 72 0x000000000000008911 = some (.rdPush 0x89 0) := by decide
theorem test_decode_rdDecode : decodeTableWord 8 0x12 = some (.rdDecode 0 0) := by decide
theorem test_decode_rdMapStatus : decodeTableWord 72 0x000000010000000913 = some (.rdMapStatus 9 1) := by decide
theorem test_decode_rdGain : decodeTableWord 72 0x00000000000007D014 = some (.rdGain 2000 0) := by decide
theorem test_decode_status : decodeTableWord 8 0x20 = some (.status 0 0) := by decide

/-- Reserved opcodes beside listed ones (30_encoding.md R64). -/
theorem test_decode_reserved :
    [0x00, 0x06, 0x0F, 0x15, 0x1F, 0x21, 0x41, 0xFF].all (fun w => decodeTableWord 72 w == none) = true := by decide

/-- `CMD[7:4]` and `CMD[3:0]` of RD_GAIN (30_encoding.md R61). -/
theorem test_opcode_fields : (encode (.rdGain 0 0)).unit = 1 ∧ (encode (.rdGain 0 0)).func = 4 := by decide

/-- A line of assembler with a decimal operand, one with two, one bare, and three that spell no command. -/
theorem test_assemble :
    assembleLine "US_TO_MCLK 24000, 428958".toList = some ⟨0x03, 24000, 428958⟩ ∧
    assembleLine "RD_PUSH 0xd0".toList = some ⟨0x11, 0xD0, 0⟩ ∧ assembleLine "STATUS".toList = some ⟨0x20, 0, 0⟩ ∧
    assembleLine "RD_START 1".toList = none ∧ assembleLine "NOP".toList = none ∧
    assembleLine "RD_GAIN 4294967296".toList = none := by decide

/-! ## One step -/

/-- The response and the state's CURSOR and FLT after the command is placed and one step runs. -/
def after (s : State) (c : Command) : Option (Response × Nat × Nat) :=
  match step (s.presentNext c) with
  | .next t => t.response.map fun r => (r, t.cursor.toNat, t.flt.toNat)
  | _ => none

/-- A success response with one word. -/
def ok (y0 : Word) : Response := ⟨0x00, false, y0, 0, 0⟩

/-- The captured block of program P2 (95_test_vectors.md P2), complete. -/
def blockP2 : State :=
  { State.reset with
    cursor := 17
    cap := ⟨some 0x09, some 0x05, ⟨some 0x0C, some 0x80⟩, ⟨some 0x00, some 0x64⟩, ⟨some 0x07, some 0xD0⟩,
      ⟨some 0x0A, some 0x00⟩⟩ }

/-- V-MP-1, V-MP-8 (OVF), V-MP-12 (pclks 512), V-MP-17 (OPERAND_RANGE before DIV_ZERO). -/
theorem test_macroPeriod :
    after State.reset ⟨0x01, 0xF, 0xB000⟩ = some (ok 428958, 0, 0) ∧
    after State.reset ⟨0x01, 0x3, 0x1⟩ = some (⟨0x00, true, 0x20000000, 0, 0⟩, 0, 0) ∧
    after State.reset ⟨0x01, 0xFF, 0xFFFF⟩ = some (ok 4718592, 0, 0) ∧
    after State.reset ⟨0x01, 0x100, 0⟩ = some (⟨0x02, false, 0, 0, 0⟩, 0, 2) := by decide

/-- V-MU-3, V-MU-5 and V-MU-6 (the tie), V-MU-9 (OVF). -/
theorem test_mclkToUs :
    after State.reset ⟨0x02, 229, 428958⟩ = some (ok 23982, 0, 0) ∧
    after State.reset ⟨0x02, 1, 0x800⟩ = some (ok 1, 0, 0) ∧ after State.reset ⟨0x02, 1, 0x7FF⟩ = some (ok 0, 0, 0) ∧
    after State.reset ⟨0x02, 0xFFFFFFFF, 0xFFFFFFFF⟩ = some (⟨0x00, true, 4292870144, 0, 0⟩, 0, 0) := by decide

/-- V-UM-3, V-UM-6 (the tie), V-UM-8 (us = 2^20 does not wrap), V-UM-12 (DIV_ZERO). -/
theorem test_usToMclk :
    after State.reset ⟨0x03, 24000, 428958⟩ = some (ok 229, 0, 0) ∧
    after State.reset ⟨0x03, 3, 0x2000⟩ = some (ok 2, 0, 0) ∧
    after State.reset ⟨0x03, 0x100000, 1⟩ = some (⟨0x00, true, 0, 0, 0⟩, 0, 0) ∧
    after State.reset ⟨0x03, 100, 0⟩ = some (⟨0x03, false, 0, 0, 0⟩, 0, 3) := by decide

/-- V-ET-1, V-ET-6, V-ET-7 (truncated), V-ET-16 (e = 24), V-ET-17 (fault). -/
theorem test_encTimeout :
    after State.reset ⟨0x04, 0, 0⟩ = some (ok 0, 0, 0) ∧ after State.reset ⟨0x04, 0x101, 0⟩ = some (ok 0x180, 0, 0) ∧
    after State.reset ⟨0x04, 300, 0⟩ = some (ok 0x195, 0, 0) ∧
    after State.reset ⟨0x04, 0xFFFFFFFF, 0⟩ = some (ok 0x18FF, 0, 0) ∧
    after State.reset ⟨0x04, 5, 1⟩ = some (⟨0x02, false, 0, 0, 0⟩, 0, 2) := by decide

/-- V-DT-1, V-DT-10, V-DT-11 (OVF), V-DT-14 (m = 0), V-DT-15 (e = 255). -/
theorem test_decTimeout :
    after State.reset ⟨0x05, 0, 0⟩ = some (ok 1, 0, 0) ∧
    after State.reset ⟨0x05, 0x18FF, 0⟩ = some (ok 0xFF000001, 0, 0) ∧
    after State.reset ⟨0x05, 0x19FF, 0⟩ = some (⟨0x00, true, 0xFE000001, 0, 0⟩, 0, 0) ∧
    after State.reset ⟨0x05, 0xFF00, 0⟩ = some (ok 1, 0, 0) ∧
    after State.reset ⟨0x05, 0xFFFF, 0⟩ = some (⟨0x00, true, 1, 0, 0⟩, 0, 0) := by decide

/-- 41_result_decoder.md R120's example, and V-RD-2. -/
theorem test_rdStart :
    after blockP2 ⟨0x10, 0, 0⟩ = some (ok 0, 0, 0) ∧
    after State.reset ⟨0x10, 1, 0⟩ = some (⟨0x02, false, 0, 0, 0⟩, 0, 2) := by decide

/-- V-RD-3, V-RD-4 (overrun) and V-RD-5 (priority). -/
theorem test_rdPush_faults :
    after State.reset ⟨0x11, 0x100, 0⟩ = some (⟨0x02, false, 0, 0, 0⟩, 0, 2) ∧
    after blockP2 ⟨0x11, 0, 0⟩ = some (⟨0x04, false, 0, 0, 0⟩, 17, 4) ∧
    after blockP2 ⟨0x11, 0x100, 0⟩ = some (⟨0x02, false, 0, 0, 0⟩, 17, 2) := by decide

/-- V-RD-13: a push at CURSOR 3 fills the high byte of eff_spads and moves CURSOR; the field holds no value yet. -/
theorem test_rdPush_highByte :
    (match step ({ blockP2 with cursor := 3, cap := Cap.empty }.presentNext ⟨0x11, 0x12, 0⟩) with
      | .next t => (t.cap.effSpads, t.cursor.toNat, t.response, t.capValue .effSpads)
      | _ => (⟨none, none⟩, 0, none, none)) = (⟨some 0x12, none⟩, 4, some (ok 4), none) := by decide

/-- P2 step 19, V-RD-1 (straight after reset) and V-RD-6. -/
theorem test_rdDecode :
    after blockP2 ⟨0x12, 0, 0⟩ = some (⟨0x00, false, 0x090007AC, 0x00640A00, 0x00050C80⟩, 17, 0) ∧
    after State.reset ⟨0x12, 0, 0⟩ = some (⟨0x05, false, 0, 0, 0⟩, 0, 5) ∧
    after blockP2 ⟨0x12, 1, 0⟩ = some (⟨0x02, false, 0, 0, 0⟩, 17, 2) := by decide

/-- V-MUX-1 to V-MUX-22, the sweep of raw codes 0 to 19 at stream count 0. -/
theorem test_mux_sweep :
    (List.range 20).map (fun raw => (mux raw 0).code.toNat) =
      [0xFF, 5, 5, 5, 2, 4, 1, 7, 3, 6, 0xFF, 0xFF, 9, 0x0D, 0xFF, 0xFF, 0xFF, 5, 0x0A, 0xFF] := by decide

/-- V-MUX-12, V-MUX-25 (no mask) and V-MUX-28. -/
theorem test_rdMapStatus :
    after State.reset ⟨0x13, 9, 0xFF⟩ = some (ok 0x00, 0, 0) ∧ after State.reset ⟨0x13, 0x89, 0⟩ = some (ok 0xFF, 0, 0) ∧
    after State.reset ⟨0x13, 9, 0x100⟩ = some (⟨0x02, false, 0, 0, 0⟩, 0, 2) := by decide

/-- V-GA-5 (a tie), V-GA-6, V-GA-10 and V-GA-11. -/
theorem test_rdGain :
    after State.reset ⟨0x14, 0x400, 0⟩ = some (ok 1006, 0, 0) ∧ after State.reset ⟨0x14, 2000, 0⟩ = some (ok 1964, 0, 0) ∧
    after State.reset ⟨0x14, 0xFFFF, 0⟩ = some (ok 64351, 0, 0) ∧
    after State.reset ⟨0x14, 0x10000, 0⟩ = some (⟨0x02, false, 0, 0, 0⟩, 0, 2) := by decide

/-- V-ST-6's last step: CURSOR 17 and FLT ILLEGAL_OP; V-ST-3's first step: STATUS itself faults. -/
theorem test_status :
    after { blockP2 with flt := 0x01 } ⟨0x20, 0, 0⟩ = some (ok 0x1101, 17, 1) ∧
    after State.reset ⟨0x20, 1, 0⟩ = some (⟨0x02, false, 0, 0, 0⟩, 0, 2) := by decide

/-- V-ST-4 and V-ST-5: a reserved opcode faults, and a later fault does not replace the first. -/
theorem test_reserved_and_sticky :
    after State.reset ⟨0xFF, 0, 0⟩ = some (⟨0x01, false, 0, 0, 0⟩, 0, 1) ∧
    after { State.reset with flt := 0x05 } ⟨0x06, 0, 0⟩ = some (⟨0x01, false, 0, 0, 0⟩, 0, 5) := by decide

/-- A reset between commands (70_reset_and_hazards.md R180, R181), with a command behind it. -/
theorem test_hostReset :
    step { blockP2 with port := [.reset, .command ⟨0x20, 0, 0⟩], flt := 0x04 } =
      .next { State.reset with port := [.command ⟨0x20, 0, 0⟩] } := rfl

/-- A placed table word runs as the first command after reset. -/
theorem test_withFetchWord : step (State.reset.withFetchWord 8 0x11) = exec (.rdPush 0 0) State.reset := rfl

/-! ## Witnesses: concrete values that meet the hypotheses of each statement, each clause at a boundary -/

theorem witness_DecodedStringIsTheEncoding :
    2 ^ 72 - 1 - 0xFF + 0x14 < 2 ^ 72 ∧
    decodeTableWord 72 (2 ^ 72 - 1 - 0xFF + 0x14) = some (.rdGain 0xFFFFFFFF 0xFFFFFFFF) := by decide

theorem witness_OpcodeMapIsTheDecoder : ([0x00, 0x06, 0x21, 0xFF] : List Byte).all (· ∉ opcodeMap) = true := by decide

theorem witness_ReservedEncodingsFault :
    (0x21 : Byte) ∉ opcodeMap ∧ decode ⟨0x11, 0x100, 0⟩ = .ok (.rdPush 0x100 0) ∧
    (Instr.rdPush 0x100 0).wellFormed = false := ⟨by decide, rfl, by decide⟩

theorem witness_StepRunsTheDecodedInstruction :
    (State.reset.presentNext ⟨0x20, 0, 0⟩).port = .command ⟨0x20, 0, 0⟩ :: [] ∧
    decode ⟨0x20, 0, 0⟩ = .ok (.status 0 0) := ⟨rfl, rfl⟩

theorem witness_EmptyPortWaits : blockP2.port = [] := rfl

theorem witness_AssertedResetClearsTheBlock :
    { blockP2 with port := [.reset, .reset] }.port = .reset :: [.reset] := rfl

theorem witness_BlockNeverHalts : blockP2.CursorLegal ∧ State.reset.CursorLegal := by decide

theorem witness_EveryCommandAnswersOneResponse :
    blockP2.CursorLegal ∧ responseOf (runCommand ⟨0x06, 1, 1⟩ blockP2) = some ⟨0x01, false, 0, 0, 0⟩ := ⟨by decide, rfl⟩

theorem witness_MacroPeriodResult :
    (0xFF : Word).toNat < 256 ∧ (0xFFFF : Word).toNat < 65536 ∧ (0xFFFF : Word).toNat ≠ 0 ∧ 256 ≤ (0x100 : Word).toNat ∧
    65536 ≤ (0x10000 : Word).toNat ∧ (0 : Word).toNat = 0 := by decide

theorem witness_UsToMclkResult : (1 : Word).toNat ≠ 0 ∧ (0 : Word).toNat = 0 := by decide

theorem witness_EncTimeoutResult : (0 : Word).toNat = 0 ∧ (0x80000000 : Word).toNat ≠ 0 := by decide

theorem witness_DecTimeoutResult :
    (0xFFFF : Word).toNat < 65536 ∧ (0 : Word).toNat = 0 ∧ 65536 ≤ (0x10000 : Word).toNat ∧ (1 : Word).toNat ≠ 0 := by
  decide

theorem witness_EncodedTimeoutIsCanonical : (0xFFFF : Word).toNat < 65536 := by decide

theorem witness_RdStartResult : (0 : Word).toNat = 0 ∧ (0x80000000 : Word).toNat ≠ 0 := by decide

theorem witness_MemWriteFillsCap : 1 ∈ [1, 5, 6, 9, 10, 11, 12] ∧ 12 ∈ [1, 5, 6, 9, 10, 11, 12] := by decide

theorem witness_RdMapStatusResult : (0xFF : Word).toNat < 256 ∧ 256 ≤ (0x100 : Word).toNat := by decide

theorem witness_RdGainResult :
    (0xFFFF : Word).toNat < 65536 ∧ (0 : Word).toNat = 0 ∧ 65536 ≤ (0x10000 : Word).toNat ∧ (1 : Word).toNat ≠ 0 := by
  decide

theorem witness_GainRoundsAndFits : 65535 < 2 ^ 16 := by decide

theorem witness_StatusResult : (0 : Word).toNat = 0 ∧ (1 : Word).toNat ≠ 0 := by decide

theorem witness_RdDecodeCompletesAtSeventeen : (0 : Word).toNat = 0 ∧ blockP2.cursor.toNat = 17 := by decide

theorem witness_OverrunProtectsTheBlock : (0xFF : Word).toNat < 256 ∧ blockP2.cursor.toNat = 17 := by decide

theorem witness_TwoStepMacrosAnswerBoth : (1 : Word).toNat ≠ 0 ∧ (0xFFFF : Word).toNat < 65536 := by decide

theorem witness_TimeoutRoundTrip :
    (0 : Word).toNat = 0 ∧ (0xFFFFFFFF : Word).toNat ≠ 0 ∧ 1 ≤ (1 : Word).toNat ∧ (256 : Word).toNat ≤ 256 := by decide

theorem witness_ConversionsRoundHalfUp : 0 < 1 := by decide

theorem witness_TimingConverterIsStateless :
    Instr.decTimeout 0xFFFF 0 ∈ [Instr.macroPeriod 0xFFFF 0, .mclkToUs 0xFFFF 0, .usToMclk 0xFFFF 0, .encTimeout 0xFFFF 0,
      .decTimeout 0xFFFF 0] := by decide

/-- MACRO_PERIOD 0x0F, 0xB000 and then US_TO_MCLK 24000 with its Y0 (95_test_vectors.md P1). -/
def sessionP1 : List Exchange :=
  [⟨⟨0x01, 0xF, 0xB000⟩, ok 428958, 0x0F, 0, 0, true, true⟩, ⟨⟨0x03, 24000, 428958⟩, ok 229, 0x0F, 0, 0, true, true⟩]

theorem witness_session_answered : AnsweredByBlock sessionP1 := by
  intro x hx
  simp only [sessionP1, List.mem_cons, List.not_mem_nil, or_false] at hx
  rcases hx with rfl | rfl
  · exact ⟨State.reset, _, rfl, by decide⟩
  · exact ⟨State.reset, _, rfl, by decide⟩

theorem witness_session_macroPeriod : MacroPeriodFromBlock sessionP1 := by
  intro pre x post h hc
  match pre, h with
  | [], h =>
    cases h
    exact absurd hc (by decide)
  | [y], h =>
    cases h
    exact ⟨_, List.mem_singleton_self _, ⟨rfl, rfl⟩, rfl, rfl⟩
  | y :: z :: w, h =>
    have := congrArg List.length h
    simp [sessionP1] at this

theorem witness_DutifulConversionsNeverDivideByZero :
    AnsweredByBlock sessionP1 ∧ MacroPeriodFromBlock sessionP1 ∧ ∃ x ∈ sessionP1, x.command.cmd = 0x03 :=
  ⟨witness_session_answered, witness_session_macroPeriod, _, List.mem_cons_of_mem _ (List.mem_singleton_self _), rfl⟩

/-- CURSOR at the boundaries of RdPushResult's clauses: kept 0 and 16, discarded 1 and 12, and 17. -/
theorem witness_RdPushResult :
    (0xFF : Word).toNat < 256 ∧ 256 ≤ (0x100 : Word).toNat ∧ (0 : Word).toNat = 0 ∧ (1 : Word).toNat ≠ 0 ∧
    State.reset.cursor.toNat < 17 ∧ State.reset.cursor.toNat ∈ keptOffsets ∧
    { blockP2 with cursor := 16 }.cursor.toNat < 17 ∧ { blockP2 with cursor := 16 }.cursor.toNat ∈ keptOffsets ∧
    { blockP2 with cursor := 1 }.cursor.toNat ∉ keptOffsets ∧ { blockP2 with cursor := 12 }.cursor.toNat ∉ keptOffsets ∧
    blockP2.cursor.toNat = 17 := by decide

theorem witness_PushBeyondTheBlockStops :
    17 < { blockP2 with cursor := 18 }.cursor.toNat ∧ 17 < { blockP2 with cursor := 31 }.cursor.toNat := by decide

/-- The captured block of P2 holds all six values, and a block one byte short is not complete. -/
theorem witness_RdDecodeResult :
    blockP2.cursor.toNat = 17 ∧ blockP2.capValue .rangeStatus = some 9 ∧ blockP2.capValue .streamCount = some 5 ∧
    blockP2.capValue .effSpads = some 0x0C80 ∧ blockP2.capValue .ambient = some 0x64 ∧
    blockP2.capValue .finalRange = some 2000 ∧ blockP2.capValue .peakRate = some 0x0A00 ∧
    { blockP2 with cursor := 16 }.cursor.toNat ≠ 17 := by decide

theorem witness_MultiplexerTable :
    ([0, 10, 11, 14, 15, 16, 19, 255] : List Nat).all (· ∉ [1, 2, 3, 4, 5, 6, 7, 8, 9, 12, 13, 17, 18]) = true := by decide

theorem witness_PartialBlockIsInvisible : { blockP2 with cursor := 16 }.cursor.toNat < 17 := by decide

/-- A complete block with an RD_LOAD, an RD_DECODE and a reset waiting. -/
def loading : State :=
  { blockP2 with
    port := (rdLoad (Vector.replicate 17 0xFF) ++ [encode (.rdDecode 0 0)]).map HostInput.command ++ [HostInput.reset] }

theorem witness_LoadedBlockDecodes :
    loading.port =
      (rdLoad (Vector.replicate 17 0xFF) ++ [encode (.rdDecode 0 0)]).map HostInput.command ++ [HostInput.reset] := rfl

/-- A fault that latches, and one that finds FLT taken. -/
theorem witness_FaultWritesOnlyFlt :
    runCommand ⟨0x12, 0, 0⟩ State.reset = .next (afterFault 0x05 State.reset) ∧
    (afterFault 0x05 State.reset).response = some ⟨0x05, false, 0, 0, 0⟩ ∧ (0x05 : Byte) ≠ 0x00 :=
  ⟨rfl, rfl, by decide⟩

theorem witness_FirstFaultSticks :
    step ({ State.reset with flt := 0x05 }.presentNext ⟨0x06, 0, 0⟩) = .next (afterFault 0x01 { State.reset with flt := 0x05 }) ∧
    { State.reset with flt := 0x05 }.flt ≠ 0x00 ∧
    ({ State.reset with flt := 0x05 }.presentNext ⟨0x06, 0, 0⟩).port.head? ≠ some .reset := ⟨rfl, by decide, by decide⟩

theorem witness_FaultPriority :
    (Instr.macroPeriod 0xFF 0).wellFormed = true ∧ (Instr.usToMclk 1 0).wellFormed = true ∧
    (Instr.rdPush 0xFF 0).wellFormed = true ∧ (Instr.rdDecode 0 0).wellFormed = true ∧
    (Instr.macroPeriod 0x100 0).wellFormed = false ∧ blockP2.cursor.toNat = 17 ∧ State.reset.cursor.toNat ≠ 17 := by decide

theorem witness_InRangeCommandsSucceed :
    blockP2.CursorLegal ∧ (Instr.rdDecode 0 0).wellFormed = true ∧ (∀ a, Instr.rdDecode 0 0 ≠ .macroPeriod a 0) ∧
    (∀ a, Instr.rdDecode 0 0 ≠ .usToMclk a 0) ∧
    (∀ a b, Instr.rdDecode 0 0 = .rdPush a b → blockP2.cursor.toNat ≠ 17) ∧
    (∀ a b, Instr.rdDecode 0 0 = .rdDecode a b → blockP2.cursor.toNat = 17) :=
  ⟨by decide, by decide, by simp, by simp, by simp, fun _ _ _ => by decide⟩

theorem witness_WritersOfTheState :
    step (blockP2.presentNext ⟨0x10, 0, 0⟩) = .next (afterReply false 0 0 0 { blockP2 with cursor := 0 }) := rfl

theorem witness_StepKeepsTheInvariant :
    (blockP2.presentNext ⟨0x10, 0, 0⟩).Inv ∧
    step (blockP2.presentNext ⟨0x10, 0, 0⟩) = .next (afterReply false 0 0 0 { blockP2 with cursor := 0 }) :=
  ⟨by decide, rfl⟩

theorem witness_RepeatedCommandsAnswerTheSame :
    (∀ a b, Instr.status 0 0 ≠ .rdPush a b) ∧ exec (.status 0 0) blockP2 = .next (afterReply false 0x1100 0 0 blockP2) :=
  ⟨by simp, rfl⟩

theorem witness_FieldsHoldValuesBelowCursor : blockP2.Inv ∧ { State.reset with cursor := 0 }.Inv := by decide

/-- Two instances after reset, one with a command, one with a reset waiting. -/
def twoInstances : Instances 2 := #v[blockP2.presentNext ⟨0x10, 0, 0⟩, { State.reset with port := [.reset] }]

theorem witness_InstancesAreIndependent :
    (0 : Fin 2) ≠ 1 ∧ (∃ t, stepInstance 0 twoInstances = .next t) ∧ ∃ t, stepInstance 1 twoInstances = .next t :=
  ⟨by decide, ⟨_, rfl⟩, ⟨_, rfl⟩⟩

end Sys2Proof.Tests
end

section
/-! Proofs for the statements of 00_scope.md: one step takes one command whole (R11), and the timing converter answers
from its operands alone (R3). -/
namespace Sys2Proof.Proofs
open Sys2Proof.Machine

/-! ## The step -/

/-- With a command at the head of the port, the step runs it on the state without it (00_scope.md R11). -/
theorem step_of_port_command {s : State} {c : Command} {rest : List HostInput} (hport : s.port = .command c :: rest) :
    step s = runCommand c { s with port := rest } := by
  simp only [step, takeInput, hport]

/-- A command that decodes runs as the meaning of its instruction. -/
theorem runCommand_of_decode {c : Command} {i : Instr} (hdecode : decode c = .ok i) (s : State) :
    runCommand c s = exec i s := by
  simp only [runCommand, hdecode]

/-- Settles O7: the step runs the oldest command, and running a command that decodes is exec. -/
theorem stepRunsTheDecodedInstruction : Obligations.StepRunsTheDecodedInstruction := by
  intro s c rest i hport hdecode
  calc step s = runCommand c { s with port := rest } := step_of_port_command hport
    _ = exec i { s with port := rest } := runCommand_of_decode hdecode _

/-! ## Answers that do not depend on the state -/

/-- `k` gives one response in every state; it keeps CAP, CURSOR and the port, and FLT too unless it faults: what
00_scope.md R3 says of a TC command. -/
def AnswersStatelessly (k : State → Answer) : Prop :=
  ∃ r : Response, ∀ s, ∃ t, k s = .next t ∧ t.response = some r ∧ t.cap = s.cap ∧ t.cursor = s.cursor ∧
    t.port = s.port ∧ (r.code = 0x00 → t.flt = s.flt)

/-- Taking a fault; its code is not the success code, so FLT may change. -/
theorem answersStatelessly_raiseFault (f : FaultCause) : AnswersStatelessly (raiseFault f) := by
  refine ⟨faultResponse f, fun s => ⟨_, rfl, ?_⟩⟩
  obtain ⟨hcap, hcursor, hport, -, hresponse⟩ := raiseFault_next (f := f) (s := s) rfl
  exact ⟨hresponse, hcap, hcursor, hport, fun hcode => absurd hcode f.code_ne_zero⟩

/-- Presenting a response that is the same in every state: `reply` and `replyNarrowed` of operands are of this form. -/
theorem answersStatelessly_respond (r : Response) : AnswersStatelessly fun s => .next (s.respond r) :=
  ⟨r, fun s => ⟨s.respond r, rfl, respond_response r s, respond_cap r s, respond_cursor r s, respond_port r s,
    fun _ => respond_flt r s⟩⟩

/-- A choice between two such answers by a condition on the operands. -/
theorem AnswersStatelessly.ite {p : Prop} [Decidable p] {k l : State → Answer} (hk : AnswersStatelessly k)
    (hl : AnswersStatelessly l) : AnswersStatelessly fun s => if p then k s else l s := by
  by_cases hp : p
  · simpa only [if_pos hp] using hk
  · simpa only [if_neg hp] using hl

/-- The operand check before such an answer. -/
theorem AnswersStatelessly.guardOperands {k : State → Answer} (inRange : Bool) (hk : AnswersStatelessly k) :
    AnswersStatelessly fun s => guardOperands inRange s (k s) :=
  hk.ite (answersStatelessly_raiseFault .operandRange)

/-! ## The timing converter -/

theorem answersStatelessly_execMacroPeriod (a b : Word) : AnswersStatelessly (execMacroPeriod a b) :=
  ((answersStatelessly_raiseFault .divZero).ite (answersStatelessly_respond _)).guardOperands _

theorem answersStatelessly_execMclkToUs (a b : Word) : AnswersStatelessly (execMclkToUs a b) :=
  answersStatelessly_respond _

theorem answersStatelessly_execUsToMclk (a b : Word) : AnswersStatelessly (execUsToMclk a b) :=
  (answersStatelessly_raiseFault .divZero).ite (answersStatelessly_respond _)

theorem answersStatelessly_execEncTimeout (a b : Word) : AnswersStatelessly (execEncTimeout a b) :=
  (answersStatelessly_respond _).guardOperands _

theorem answersStatelessly_execDecTimeout (a b : Word) : AnswersStatelessly (execDecTimeout a b) :=
  (answersStatelessly_respond _).guardOperands _

/-- Settles O23, by the five TC commands: each is built of faults and replies that read the operands only. -/
theorem timingConverterIsStateless : Obligations.TimingConverterIsStateless := by
  intro a b i hi
  change AnswersStatelessly (exec i)
  simp only [List.mem_cons, List.not_mem_nil, or_false] at hi
  rcases hi with rfl | rfl | rfl | rfl | rfl
  · exact answersStatelessly_execMacroPeriod a b
  · exact answersStatelessly_execMclkToUs a b
  · exact answersStatelessly_execUsToMclk a b
  · exact answersStatelessly_execEncTimeout a b
  · exact answersStatelessly_execDecTimeout a b

end Sys2Proof.Proofs
end

section
/-! Proofs for the statements of 10_state.md: the state after reset (R29), who writes CAP, CURSOR and FLT (R23, R25,
R26), which fields of CAP hold a value (R24), the invariant of a step, and what no command reads (R22). -/
namespace Sys2Proof.Proofs
open Sys2Proof.Machine Sys2Proof.Statements

/-! ## RD_PUSH above CURSOR 17 and RD_DECODE at it -/

/-- Operands that fit their fields pass the operand check (30_encoding.md R65). -/
theorem guardOperands_of_fits {a b : Word} {la lb : Nat} (hla : la ≤ 32) (hlb : lb ≤ 32) (ha : a.toNat < 2 ^ la)
    (hb : b.toNat < 2 ^ lb) (s : State) (k : Answer) :
    guardOperands (zeroBits a 31 la && zeroBits b 31 lb) s k = k := by
  rw [(zeroBits_iff a hla).mpr ha, (zeroBits_iff b hlb).mpr hb]
  rfl

/-- Offsets above 16 do not exist (20_memory.md R40). -/
theorem memWrite_eq_none {off : Nat} (hoff : 17 ≤ off) (x : Byte) (c : Cap) : c.memWrite off x = none := by
  rw [← Option.not_isSome_iff_eq_none, memWrite_isSome_iff]
  omega

/-- Settles O28: above 17 CURSOR is no overrun and names no offset. -/
theorem pushBeyondTheBlockStops : Obligations.PushBeyondTheBlockStops := by
  intro s a b ha hb hcursor
  have hnotFull : s.cursor.toNat ≠ resultBlockLen := hcursor.ne'
  change execRdPush a b s = _
  rw [execRdPush, guardOperands_of_fits (by decide) (by decide) ha (by omega), if_neg hnotFull,
    memWrite_eq_none hcursor.le]

/-- Settles O30: at 17 RD_DECODE presents the response packed from CAP and does nothing else. -/
theorem rdDecodeCompletesAtSeventeen : Obligations.RdDecodeCompletesAtSeventeen := by
  intro s a b ha hb hcursor
  have hfull : s.cursor.toNat = resultBlockLen := hcursor
  refine ⟨(decodeResponse s.cap).y0, (decodeResponse s.cap).y1, (decodeResponse s.cap).y2, ?_⟩
  change execRdDecode a b s = _
  rw [execRdDecode, guardOperands_of_fits (by decide) (by decide) (by omega) (by omega), if_pos hfull]
  rfl

/-! ## The fields of CAP -/

/-- At CURSOR 0 no field holds a value (10_state.md R24). -/
theorem capValue_of_cursor_zero {s : State} (hcursor : s.cursor = 0) (f : CapField) : s.capValue f = none := by
  simp [State.capValue, hcursor]

/-- Settles O11. -/
theorem resetState : Obligations.ResetState :=
  ⟨rfl, rfl, capValue_of_cursor_zero rfl⟩

/-- A 16-bit field makes a number as soon as both its bytes are written (20_memory.md R44). -/
theorem field16_value_isSome {f : Field16} (hhi : f.hi.isSome = true) (hlo : f.lo.isSome = true) :
    f.value?.isSome = true := by
  obtain ⟨hi, hhi⟩ := Option.isSome_iff_exists.mp hhi
  obtain ⟨lo, hlo⟩ := Option.isSome_iff_exists.mp hlo
  simp [Field16.value?, hhi, hlo]

/-- The bytes that fill a field are kept offsets up to its last one (10_state.md R23). -/
theorem stored_isSome {c : Cap} {f : CapField}
    (h : ∀ off ∈ keptOffsets, off ≤ f.lastOffset → (c.byteAt off).isSome = true) : (c.stored f).isSome = true := by
  cases f with
  | rangeStatus => exact Option.isSome_map.trans (h 0 (by decide) (by decide))
  | streamCount => exact Option.isSome_map.trans (h 2 (by decide) (by decide))
  | effSpads => exact field16_value_isSome (h 3 (by decide) (by decide)) (h 4 (by decide) (by decide))
  | ambient => exact field16_value_isSome (h 7 (by decide) (by decide)) (h 8 (by decide) (by decide))
  | finalRange => exact field16_value_isSome (h 13 (by decide) (by decide)) (h 14 (by decide) (by decide))
  | peakRate => exact field16_value_isSome (h 15 (by decide) (by decide)) (h 16 (by decide) (by decide))

/-- In a backed capture the fields below CURSOR, and only they, hold a value (10_state.md R24). -/
theorem capValue_isSome_iff {s : State} (hbacked : s.CaptureBacked) (f : CapField) :
    (s.capValue f).isSome = true ↔ f.lastOffset < s.cursor.toNat := by
  by_cases hlast : f.lastOffset < s.cursor.toNat
  · have hstored := stored_isSome (f := f) fun off hkept hle => hbacked off hkept (by omega)
    rw [State.capValue, if_pos hlast]
    exact iff_of_true hstored hlast
  · simp [State.capValue, hlast]

/-- Every field is filled from the 17 offsets of the result block (20_memory.md R41). -/
theorem lastOffset_lt (f : CapField) : f.lastOffset < 17 := by cases f <;> decide

/-- Settles O48. -/
theorem fieldsHoldValuesBelowCursor : Obligations.FieldsHoldValuesBelowCursor := by
  rintro s f ⟨-, -, hbacked⟩
  have hiff := capValue_isSome_iff hbacked f
  exact ⟨hiff, fun hcursor => hiff.mpr (hcursor ▸ lastOffset_lt f)⟩

/-! ## The placed command -/

theorem decode_encode (i : Instr) : decode (encode i) = .ok i := by cases i <;> rfl

/-- A command that decodes is the one that encodes its instruction (30_encoding.md R63). -/
theorem encode_of_decode {c : Command} {i : Instr} (h : decode c = .ok i) : encode i = c := by
  obtain ⟨cmd, a, b⟩ := c
  simp only [decode] at h
  split at h <;> cases h <;> rfl

/-- The 72-bit word of an instruction holds its command (log 8). -/
theorem ofTableWord_encodeTableWord (i : Instr) : Command.ofTableWord 72 (encodeTableWord i) = encode i := by
  have hlt : encodeTableWord i < 2 ^ 72 := (encode i).toBits.isLt
  rw [Command.ofTableWord, Nat.mod_eq_of_lt hlt, encodeTableWord, BitVec.ofNat_toNat, BitVec.setWidth_eq,
    Laws.command_ofBits_toBits]

/-- The step after a command is placed runs it on the state before the placing (log 10). -/
theorem step_presentNext (c : Command) (s : State) : step (s.presentNext c) = runCommand c s :=
  step_of_port_command (presentNext_port c s)

/-- Settles O8. -/
theorem placedCommandRunsNext : Obligations.PlacedCommandRunsNext := by
  intro s i
  rw [State.withFetchWord, ofTableWord_encodeTableWord, step_presentNext, runCommand_of_decode (decode_encode i)]

/-! ## Who writes CURSOR, FLT and CAP -/

/-- Below 17 the 5-bit CURSOR counts up without wrapping (10_state.md R25). -/
theorem cursor_succ_toNat {n : BitVec 5} (h : n.toNat < 17) : (n + 1).toNat = n.toNat + 1 := by bv_omega

/-- FLT after a fault: as it was, or the fault's code where it was 0 (60_exceptions.md R163). -/
theorem latchFault_cases (f : FaultCause) (flt : Byte) :
    latchFault f flt = flt ∨ flt = 0x00 ∧ latchFault f flt = f.code := by
  by_cases hflt : flt = 0x00
  · exact .inr ⟨hflt, if_pos hflt⟩
  · exact .inl (if_neg hflt)

/-- CURSOR is written by RD_START and by a push below 17 (10_state.md R25). -/
theorem runCommand_cursor {c : Command} {s t : State} (h : runCommand c s = .next t) :
    t.cursor = s.cursor ∨ c.cmd = 0x10 ∧ t.cursor = 0 ∨
      c.cmd = 0x11 ∧ s.cursor.toNat < 17 ∧ t.cursor.toNat = s.cursor.toNat + 1 := by
  rcases runCommand_next h with ⟨f, hfault⟩ | ⟨i, hdecode, -, -, -, hwrites⟩
  · obtain ⟨-, hcursor, -⟩ := raiseFault_next hfault
    exact .inl hcursor
  · cases encode_of_decode hdecode
    rcases hwrites with ⟨-, hcursor⟩ | ⟨a, b, rfl, -, hcursor⟩ | ⟨a, b, x, rfl, hlt, -, hcursor⟩
    · exact .inl hcursor
    · exact .inr (.inl ⟨rfl, hcursor⟩)
    · exact .inr (.inr ⟨rfl, hlt, hcursor ▸ cursor_succ_toNat hlt⟩)

/-- FLT is written by a faulting command while it is 0, with the code of the response (10_state.md R26). -/
theorem runCommand_flt {c : Command} {s t : State} (h : runCommand c s = .next t) :
    t.flt = s.flt ∨ s.flt = 0x00 ∧ ∃ r, t.response = some r ∧ r.code ≠ 0x00 ∧ t.flt = r.code := by
  rcases runCommand_next h with ⟨f, hfault⟩ | ⟨i, -, hflt, -⟩
  · obtain ⟨-, -, -, hflt, hresponse⟩ := raiseFault_next hfault
    rw [hflt]
    exact (latchFault_cases f s.flt).imp id fun ⟨hzero, hcode⟩ =>
      ⟨hzero, faultResponse f, hresponse, f.code_ne_zero, hcode⟩
  · exact .inl hflt

/-- CAP is written by RD_PUSH (10_state.md R23). -/
theorem runCommand_cap {c : Command} {s t : State} (h : runCommand c s = .next t) : t.cap = s.cap ∨ c.cmd = 0x11 := by
  rcases runCommand_next h with ⟨f, hfault⟩ | ⟨i, hdecode, -, -, -, hwrites⟩
  · obtain ⟨hcap, -⟩ := raiseFault_next hfault
    exact .inl hcap
  · cases encode_of_decode hdecode
    rcases hwrites with ⟨hcap, -⟩ | ⟨a, b, -, hcap, -⟩ | ⟨a, b, x, rfl, -⟩
    · exact .inl hcap
    · exact .inl hcap
    · exact .inr rfl

/-- Settles O43: a step waits, resets or runs one command, and the three lemmas above say what that command writes. -/
theorem writersOfTheState : Obligations.WritersOfTheState := by
  intro s t hstep
  rcases step_next hstep with ⟨-, rfl⟩ | ⟨rest, hport, -⟩ | ⟨c, rest, hport, hrun⟩
  · exact .inr ⟨.inl rfl, .inl rfl, .inl rfl⟩
  · exact .inl (by rw [hport]; rfl)
  · have hhead : s.port.head? = some (.command c) := by rw [hport]; rfl
    refine .inr ⟨?_, ?_, ?_⟩
    · exact (runCommand_cursor hrun).imp id fun hwrite => ⟨c, hhead, hwrite⟩
    · exact (runCommand_flt hrun).imp id fun ⟨hzero, r, hwrite⟩ => ⟨hzero, c, r, hhead, hwrite⟩
    · exact (runCommand_cap hrun).imp id fun hcmd => ⟨c, hhead, hcmd⟩

/-! ## The invariant -/

/-- At CURSOR 0 no byte has to be written. -/
theorem captureBacked_of_cursor_zero {s : State} (hcursor : s.cursor = 0) : s.CaptureBacked := by
  intro off _ hlt
  simp [hcursor] at hlt

/-- A successful push keeps the capture backed: it fills the one offset that CURSOR passes. -/
theorem captureBacked_of_push {s t : State} {x : Byte} (hbacked : s.CaptureBacked)
    (hwrite : s.cap.memWrite s.cursor.toNat x = some t.cap) (hcursor : t.cursor.toNat = s.cursor.toNat + 1) :
    t.CaptureBacked := by
  intro off hkept hlt
  by_cases hoff : off = s.cursor.toNat
  · subst hoff
    rw [memWrite_byteAt_same hwrite hkept]
    rfl
  · rw [memWrite_byteAt_other hwrite hoff]
    exact hbacked off hkept (by omega)

/-- What keeps CAP and CURSOR and leaves FLT legal keeps the invariant. -/
theorem inv_of_frame {s t : State} (hcap : t.cap = s.cap) (hcursor : t.cursor = s.cursor) (hflt : t.FltLegal)
    (hs : s.Inv) : t.Inv := by
  obtain ⟨hlegal, -, hbacked⟩ := hs
  refine ⟨?_, hflt, ?_⟩
  · rwa [State.CursorLegal, hcursor]
  · rwa [State.CaptureBacked, hcap, hcursor]

/-- With CURSOR 0 the invariant is that FLT is legal. -/
theorem inv_of_cursor_zero {s : State} (hcursor : s.cursor = 0) (hflt : s.FltLegal) : s.Inv :=
  ⟨by simp [State.CursorLegal, hcursor], hflt, captureBacked_of_cursor_zero hcursor⟩

/-- What a fault latches is a legal FLT (60_exceptions.md R160, R163). -/
theorem latchFault_legal (f : FaultCause) {flt : Byte} (h : flt.toNat ≤ 5) : (latchFault f flt).toNat ≤ 5 := by
  rcases latchFault_cases f flt with hkeep | ⟨-, hcode⟩
  · rwa [hkeep]
  · rw [hcode]
    cases f <;> decide

/-- A fault keeps the invariant: it writes only FLT, and that with a code (60_exceptions.md R162). -/
theorem inv_of_faultedFrom {s t : State} (hs : s.Inv) (h : FaultedFrom s t) : t.Inv := by
  obtain ⟨f, hfault⟩ := h
  obtain ⟨hcap, hcursor, -, hflt, -⟩ := raiseFault_next hfault
  have ⟨_, hlegal, _⟩ := hs
  have hlegal' : t.FltLegal := by
    rw [State.FltLegal, hflt]
    exact latchFault_legal f hlegal
  exact inv_of_frame hcap hcursor hlegal' hs

/-- A successful command keeps the invariant: RD_START empties the capture, RD_PUSH extends it by one written offset,
and every other command leaves CAP and CURSOR alone. -/
theorem inv_of_succeededFrom {i : Instr} {s t : State} (hs : s.Inv) (h : SucceededFrom i s t) : t.Inv := by
  obtain ⟨hflt, -, -, hwrites⟩ := h
  have ⟨_, hlegal, hbacked⟩ := hs
  have hlegal' : t.FltLegal := by rwa [State.FltLegal, hflt]
  rcases hwrites with ⟨hcap, hcursor⟩ | ⟨a, b, -, -, hcursor⟩ | ⟨a, b, x, -, hlt, hwrite, hcursor⟩
  · exact inv_of_frame hcap hcursor hlegal' hs
  · exact inv_of_cursor_zero hcursor hlegal'
  · have hsucc : t.cursor.toNat = s.cursor.toNat + 1 := hcursor ▸ cursor_succ_toNat hlt
    exact ⟨by rw [State.CursorLegal, hsucc]; omega, hlegal', captureBacked_of_push hbacked hwrite hsucc⟩

/-- Settles O46. -/
theorem resetMeetsTheInvariant : Obligations.ResetMeetsTheInvariant := inv_of_cursor_zero rfl (by decide)

/-- Settles O47, by what a step can do: wait, reset, fault or succeed. -/
theorem stepKeepsTheInvariant : Obligations.StepKeepsTheInvariant := by
  intro s t hs hstep
  rcases step_next hstep with ⟨-, rfl⟩ | ⟨rest, -, rfl⟩ | ⟨c, rest, -, hrun⟩
  · exact hs
  · exact resetMeetsTheInvariant
  · have htaken : { s with port := rest }.Inv := hs
    rcases runCommand_next hrun with hfault | ⟨i, -, hsuccess⟩
    · exact inv_of_faultedFrom htaken hfault
    · exact inv_of_succeededFrom htaken hsuccess

/-! ## What no command reads -/

/-- A reserved opcode raises ILLEGAL_OP (30_encoding.md R64). -/
theorem runCommand_of_reserved {c : Command} {e : DecodeError} (hdecode : decode c = .error e) (s : State) :
    runCommand c s = raiseFault .illegalOp s := by
  cases e
  simp only [runCommand, hdecode]

/-- The choice between two answers responds alike where both answers do. -/
theorem responseOf_ite_congr {p : Prop} [Decidable p] {k k' l l' : Answer} (hk : responseOf k = responseOf k')
    (hl : responseOf l = responseOf l') : responseOf (if p then k else l) = responseOf (if p then k' else l') := by
  by_cases hp : p
  · rwa [if_pos hp, if_pos hp]
  · rwa [if_neg hp, if_neg hp]

/-- The operand check responds alike in any two states where the checked command does: its fault reads no state. -/
theorem responseOf_guardOperands_congr (inRange : Bool) {s s' : State} {k k' : Answer}
    (hk : responseOf k = responseOf k') :
    responseOf (guardOperands inRange s k) = responseOf (guardOperands inRange s' k') :=
  responseOf_ite_congr hk rfl

/-- The push's two ways on from the write at CURSOR respond alike in states that agree on CAP and CURSOR. -/
theorem responseOf_execRdPush_congr (a b : Word) {s s' : State} (hcap : s'.cap = s.cap)
    (hcursor : s'.cursor = s.cursor) : responseOf (execRdPush a b s') = responseOf (execRdPush a b s) := by
  unfold execRdPush
  rw [hcap, hcursor]
  refine responseOf_guardOperands_congr _ (responseOf_ite_congr rfl ?_)
  cases s.cap.memWrite s.cursor.toNat (BitVec.ofNat 8 (field a 7 0)) <;> rfl

/-- Every instruction responds alike in states that differ in the recorded response and the port (10_state.md R22). -/
theorem responseOf_exec_with (i : Instr) (s : State) (r : Option Response) (p : List HostInput) :
    responseOf (exec i { s with response := r, port := p }) = responseOf (exec i s) := by
  cases i with
  | macroPeriod a b => exact responseOf_guardOperands_congr _ (responseOf_ite_congr rfl rfl)
  | mclkToUs a b => rfl
  | usToMclk a b => exact responseOf_ite_congr rfl rfl
  | encTimeout a b | decTimeout a b | rdStart a b | rdMapStatus a b | rdGain a b | status a b =>
    exact responseOf_guardOperands_congr _ rfl
  | rdPush a b => exact responseOf_execRdPush_congr a b rfl rfl
  | rdDecode a b => exact responseOf_guardOperands_congr _ (responseOf_ite_congr rfl rfl)

/-- Settles O45: a command is its instruction, or the fault of a reserved opcode. -/
theorem commandsIgnoreEarlierResponses : Obligations.CommandsIgnoreEarlierResponses := by
  intro s c r p
  cases hdecode : decode c with
  | ok i =>
    rw [runCommand_of_decode hdecode, runCommand_of_decode hdecode]
    exact responseOf_exec_with i s r p
  | error e =>
    rw [runCommand_of_reserved hdecode, runCommand_of_reserved hdecode]
    rfl

end Sys2Proof.Proofs
end

section
/-! Proofs for the statements of 20_memory.md: which byte of CAP a result-block offset fills (R42), and that RD_PUSH is
the one command whose repetition can answer differently (R47). -/
namespace Sys2Proof.Proofs
open Sys2Proof.Machine

/-! ## The write of one result-block byte -/

/-- An offset that exists but is not kept takes its byte and writes nothing (20_memory.md R42). -/
theorem memWrite_of_discarded {off : Nat} (hoff : off < 17) (hdiscarded : off ∉ keptOffsets) (x : Byte) (c : Cap) :
    c.memWrite off x = some c := by
  obtain ⟨c', hwrite⟩ := Option.isSome_iff_exists.mp ((memWrite_isSome_iff off x c).mpr hoff)
  rwa [memWrite_discarded hwrite hdiscarded] at hwrite

/-- Settles O26: each kept offset computes to its field; the other seven are discarded offsets. -/
theorem memWriteFillsCap : Obligations.MemWriteFillsCap := by
  intro c x
  refine ⟨rfl, rfl, rfl, rfl, rfl, rfl, rfl, rfl, rfl, rfl, fun off hoff => ?_⟩
  have hdiscarded : ∀ o ∈ [1, 5, 6, 9, 10, 11, 12], o < 17 ∧ o ∉ keptOffsets := by decide
  obtain ⟨hlt, hnotKept⟩ := hdiscarded off hoff
  exact memWrite_of_discarded hlt hnotKept x c

/-! ## Repeated commands -/

/-- Wherever `k` answers a next state, it answers one from there too, with the same response (20_memory.md R47). -/
def RepeatsResponse (k : State → Answer) : Prop :=
  ∀ s t, k s = .next t → ∃ u, k t = .next u ∧ u.response = t.response

/-- What responds from its operands alone responds alike in any two states. -/
theorem AnswersStatelessly.repeatsResponse {k : State → Answer} (hk : AnswersStatelessly k) : RepeatsResponse k := by
  obtain ⟨r, hanswer⟩ := hk
  intro s t h
  obtain ⟨_, hnext, hresponse, -⟩ := hanswer s
  cases hnext.symm.trans h
  obtain ⟨u, hu, hrepeated, -⟩ := hanswer t
  exact ⟨u, hu, hrepeated.trans hresponse.symm⟩

/-- The operand check reads no state: it passes both times, or faults both times with one response. -/
theorem RepeatsResponse.guardOperands {k : State → Answer} (inRange : Bool) (hk : RepeatsResponse k) :
    RepeatsResponse fun s => guardOperands inRange s (k s) := by
  cases inRange with
  | true => exact hk
  | false => exact (answersStatelessly_raiseFault .operandRange).repeatsResponse

/-- RD_START writes CURSOR, but its response is the same from any CURSOR (41_result_decoder.md R120). -/
theorem repeatsResponse_execRdStart (a b : Word) : RepeatsResponse (execRdStart a b) := by
  refine RepeatsResponse.guardOperands _ fun s t h => ⟨_, rfl, ?_⟩
  rw [reply_next h, respond_response, respond_response]

/-- RD_DECODE does not consume the block (41_result_decoder.md R122): CURSOR and CAP stand whether it completes or
faults, so the repeated command takes the same way with the same response. -/
theorem repeatsResponse_execRdDecode (a b : Word) : RepeatsResponse (execRdDecode a b) := by
  refine RepeatsResponse.guardOperands _ fun s t h => ?_
  by_cases hfull : s.cursor.toNat = resultBlockLen
  · rw [if_pos hfull] at h
    cases h
    exact ⟨_, if_pos hfull, rfl⟩
  · rw [if_neg hfull] at h
    obtain ⟨-, hcursor, -, -, hresponse⟩ := raiseFault_next h
    exact ⟨_, if_neg (hcursor ▸ hfull), hresponse.symm⟩

/-- A successful STATUS leaves CURSOR and FLT, all it reads, as they were (42_status.md R150). A faulting one may latch
FLT, but neither it nor its repetition reads FLT. -/
theorem repeatsResponse_execStatus (a b : Word) : RepeatsResponse (execStatus a b) := by
  refine RepeatsResponse.guardOperands _ fun s t h => ⟨_, rfl, ?_⟩
  cases reply_next h
  rfl

/-- Settles O44, by the instruction: RD_START, RD_DECODE and STATUS by the lemmas above, every other one because it
reads its operands only. -/
theorem repeatedCommandsAnswerTheSame : Obligations.RepeatedCommandsAnswerTheSame := by
  intro s t i hnotPush
  suffices hrepeats : RepeatsResponse (exec i) from hrepeats s t
  cases i with
  | macroPeriod a b => exact (answersStatelessly_execMacroPeriod a b).repeatsResponse
  | mclkToUs a b => exact (answersStatelessly_execMclkToUs a b).repeatsResponse
  | usToMclk a b => exact (answersStatelessly_execUsToMclk a b).repeatsResponse
  | encTimeout a b => exact (answersStatelessly_execEncTimeout a b).repeatsResponse
  | decTimeout a b => exact (answersStatelessly_execDecTimeout a b).repeatsResponse
  | rdStart a b => exact repeatsResponse_execRdStart a b
  | rdPush a b => exact absurd rfl (hnotPush a b)
  | rdDecode a b => exact repeatsResponse_execRdDecode a b
  | rdMapStatus a b | rdGain a b => exact ((answersStatelessly_respond _).guardOperands _).repeatsResponse
  | status a b => exact repeatsResponse_execStatus a b

end Sys2Proof.Proofs
end

section
/-! Proofs for the statements of 30_encoding.md: the encoder and the decoder agree (R60, R63), what reserved encodings
do (R64), one response for every command (R62), canonical timeout encodings (R72), and the pseudo-instructions of R80. -/
namespace Sys2Proof.Proofs
open Sys2Proof.Machine Sys2Proof.Statements

/-! ## Words put together from parts -/

/-- Two parts side by side, as a number. -/
theorem append_toNat {m n : Nat} (x : BitVec m) (y : BitVec n) : (x ++ y).toNat = x.toNat * 2 ^ n + y.toNat := by
  rw [BitVec.toNat_append, ← Nat.shiftLeft_add_eq_or_of_lt y.isLt, Nat.shiftLeft_eq]

/-- Two parts side by side, as the word of a number. -/
theorem append_eq_ofNat {m n : Nat} (x : BitVec m) (y : BitVec n) :
    x ++ y = BitVec.ofNat (m + n) (x.toNat * 2 ^ n + y.toNat) := by
  rw [← append_toNat, BitVec.ofNat_toNat, BitVec.setWidth_eq]

/-- Three parts side by side, as the word of a number. -/
theorem append_append_eq_ofNat {l m n : Nat} (x : BitVec l) (y : BitVec m) (z : BitVec n) :
    x ++ y ++ z = BitVec.ofNat (l + m + n) (x.toNat * 2 ^ (m + n) + y.toNat * 2 ^ n + z.toNat) := by
  rw [append_eq_ofNat, append_toNat, Nat.add_mul, Nat.mul_assoc, ← Nat.pow_add]

/-! ## The decoder and the encoder -/

/-- Settles O2: the 72-bit word holds the instruction's command, which decodes to it. -/
theorem encodedCommandDecodesToItself : Obligations.EncodedCommandDecodesToItself := by
  intro i
  rw [decodeTableWord, ofTableWord_encodeTableWord, decode_encode]
  rfl

/-- A table word decodes to what its command decodes to. -/
theorem decode_of_decodeTableWord {nbits w : Nat} {i : Instr} (h : decodeTableWord nbits w = some i) :
    decode (Command.ofTableWord nbits w) = .ok i := by
  unfold decodeTableWord at h
  cases hdecode : decode (Command.ofTableWord nbits w) with
  | ok j => simpa [hdecode, Except.toOption] using h
  | error e => simp [hdecode, Except.toOption] at h

/-- The command of a 72-bit number lays that number out again (log 8). -/
theorem ofTableWord_toBits_toNat {w : Nat} (hw : w < 2 ^ 72) : (Command.ofTableWord 72 w).toBits.toNat = w := by
  rw [Command.ofTableWord, Laws.command_toBits_ofBits, BitVec.toNat_ofNat, Nat.mod_mod, Nat.mod_eq_of_lt hw]

/-- Settles O3: the command that decodes is the instruction's own encoding, and its layout is the number. -/
theorem decodedStringIsTheEncoding : Obligations.DecodedStringIsTheEncoding := by
  intro w i hw hdecode
  rw [encodeTableWord, encode_of_decode (decode_of_decodeTableWord hdecode), ofTableWord_toBits_toNat hw]

/-- An opcode outside the map matches no row of the decoder (30_encoding.md R63, R64). -/
theorem decode_of_not_mem_opcodeMap {c : Command} (hcmd : c.cmd ∉ opcodeMap) :
    decode c = .error (.reservedOpcode c.cmd) := by
  simp only [opcodeMap, List.mem_cons, List.not_mem_nil, or_false, not_or] at hcmd
  unfold decode
  split <;> simp_all

/-- Settles O4: each row computes, and an opcode outside the map falls through. -/
theorem opcodeMapIsTheDecoder : Obligations.OpcodeMapIsTheDecoder := fun _ _ =>
  ⟨rfl, rfl, rfl, rfl, rfl, rfl, rfl, rfl, rfl, rfl, rfl, fun _ hcmd => decode_of_not_mem_opcodeMap hcmd⟩

/-- Settles O1: the four words are the encodings of their instructions, with B and A 0 where the number is short. -/
theorem sampleWordsDecode : Obligations.SampleWordsDecode :=
  ⟨encodedCommandDecodesToItself (.macroPeriod 0x0F 0xB000), encodedCommandDecodesToItself (.encTimeout 300 0),
    encodedCommandDecodesToItself (.rdPush 0x12 0), Tests.test_decode_status, by decide, by decide⟩

/-- Settles O6: the three lines are closed, and the assembler runs on them. -/
theorem assemblerExamples : Obligations.AssemblerExamples := by
  refine ⟨?_, ?_, ?_⟩ <;> decide

/-! ## Reserved encodings -/

/-- Taking a fault gives the fault state that 60_exceptions.md R162 and R163 describe. -/
theorem raiseFault_eq_afterFault (f : FaultCause) (s : State) : raiseFault f s = .next (afterFault f.code s) := rfl

/-- The must-be-0 bits above a field are 0 exactly when the word is a value of the field (30_encoding.md R65). -/
theorem zeroBits_eq_fitsField (w : Word) {lo : Nat} (hlo : lo ≤ 32) : zeroBits w 31 lo = fitsField lo w := by
  rw [Bool.eq_iff_iff, zeroBits_iff w hlo, fitsField, decide_eq_true_iff]

/-- Operands of which one does not fit its field fail the operand check (30_encoding.md R64). -/
theorem guardOperands_of_misfit {a b : Word} {la lb : Nat} (hla : la ≤ 32) (hlb : lb ≤ 32)
    (hmisfit : (fitsField la a && fitsField lb b) = false) (s : State) (k : Answer) :
    guardOperands (zeroBits a 31 la && zeroBits b 31 lb) s k = raiseFault .operandRange s := by
  rw [zeroBits_eq_fitsField a hla, zeroBits_eq_fitsField b hlb, hmisfit]
  rfl

/-- An instruction with a nonzero must-be-0 bit raises OPERAND_RANGE (30_encoding.md R64). -/
theorem exec_of_not_wellFormed {i : Instr} (hill : i.wellFormed = false) (s : State) :
    exec i s = raiseFault .operandRange s := by
  cases i with
  | mclkToUs a b | usToMclk a b => cases hill
  | encTimeout a b =>
    have hmisfit : zeroBits b 31 0 = false := (zeroBits_eq_fitsField b (by decide)).trans hill
    change execEncTimeout a b s = _
    rw [execEncTimeout, hmisfit]
    rfl
  | macroPeriod a b | decTimeout a b | rdStart a b | rdPush a b | rdDecode a b | rdMapStatus a b | rdGain a b
  | status a b => exact guardOperands_of_misfit (by decide) (by decide) hill s _

/-- Settles O5. -/
theorem reservedEncodingsFault : Obligations.ReservedEncodingsFault := by
  refine fun s c => ⟨fun hcmd => ?_, fun i hdecode hill => ?_⟩
  · rw [runCommand_of_reserved (decode_of_not_mem_opcodeMap hcmd), raiseFault_eq_afterFault]
    rfl
  · rw [runCommand_of_decode hdecode, exec_of_not_wellFormed hill, raiseFault_eq_afterFault]
    rfl

/-! ## One response for every command -/

/-- From a legal CURSOR every command answers a next state, a reserved one too (60_exceptions.md R162). -/
theorem runCommand_next_of_cursorLegal (c : Command) {s : State} (hs : s.CursorLegal) :
    ∃ t, runCommand c s = .next t := by
  cases hdecode : decode c with
  | ok i =>
    obtain ⟨t, hnext⟩ := exec_next_of_cursorLegal i hs
    exact ⟨t, (runCommand_of_decode hdecode s).trans hnext⟩
  | error e => exact ⟨_, runCommand_of_reserved hdecode s⟩

/-- Settles O13: a command faults, and then responds with zero words, or succeeds, and then its code is 0x00. -/
theorem everyCommandAnswersOneResponse : Obligations.EveryCommandAnswersOneResponse := by
  intro s c hs
  obtain ⟨t, hrun⟩ := runCommand_next_of_cursorLegal c hs
  rcases runCommand_next hrun with ⟨f, hfault⟩ | ⟨i, -, -, -, ⟨r, hresponse, hcode⟩, -⟩
  · obtain ⟨-, -, -, -, hresponse⟩ := raiseFault_next hfault
    exact ⟨t, faultResponse f, hrun, hresponse, fun _ => ⟨rfl, rfl, rfl, rfl⟩⟩
  · exact ⟨t, r, hrun, hresponse, fun hne => absurd hcode hne⟩

/-! ## Timeout encodings -/

/-- The encoding of a nonzero count is its exponent and mantissa, side by side (40_timing_converter.md R105). -/
theorem encodeTimeoutReg_toNat {n : Nat} (hn : n < 2 ^ 32) (hne : n ≠ 0) :
    (encodeTimeoutReg n).toNat = (encodeFields n).1 * 256 + (encodeFields n).2 := by
  obtain ⟨-, hmant, hexp, -⟩ := encodeFields_spec hn
  rw [encodeTimeoutReg, if_neg hne]
  have hmant8 : (encodeFields n).2 < 2 ^ 8 := by omega
  have hexp8 : (encodeFields n).1 < 2 ^ 8 := by omega
  rw [append_toNat, BitVec.toNat_ofNat, BitVec.toNat_ofNat, Nat.mod_eq_of_lt hexp8, Nat.mod_eq_of_lt hmant8]
  rfl

/-- A nonzero exponent is the least that makes the mantissa fit 8 bits, so the mantissa uses the eighth. -/
theorem encodeFields_mantissa_ge {n : Nat} (hn : n < 2 ^ 32) (hexp : (encodeFields n).1 ≠ 0) :
    0x80 ≤ (encodeFields n).2 := by
  obtain ⟨hmant, -, -, hleast⟩ := encodeFields_spec hn
  obtain ⟨e, he⟩ := Nat.exists_eq_succ_of_ne_zero hexp
  have hbig : 0xFF < (n - 1) / 2 ^ e := hleast e (by omega)
  rw [hmant, he, Nat.pow_succ, ← Nat.div_div_eq_div_mul]
  omega

/-- The encoding of every count is canonical (30_encoding.md R72). -/
theorem encodeTimeoutReg_canonical {n : Nat} (hn : n < 2 ^ 32) :
    encodeTimeoutReg n = 0 ∨ (encodeTimeoutReg n).toNat < 256 ∨
      (1 ≤ (encodeTimeoutReg n).toNat / 256 ∧ (encodeTimeoutReg n).toNat / 256 ≤ 24 ∧
        0x80 ≤ (encodeTimeoutReg n).toNat % 256) := by
  by_cases hzero : n = 0
  · exact .inl (if_pos hzero)
  · obtain ⟨-, hmant, hexp, -⟩ := encodeFields_spec hn
    rw [encodeTimeoutReg_toNat hn hzero]
    by_cases hsmall : (encodeFields n).1 = 0
    · exact .inr (.inl (by omega))
    · have := encodeFields_mantissa_ge hn hsmall
      exact .inr (.inr (by omega))

/-- ENC_TIMEOUT with B 0 replies the encoding of its count (40_timing_converter.md R105). -/
theorem exec_encTimeout (mclks : Word) (s : State) :
    exec (.encTimeout mclks 0) s = .next (afterReply false ((encodeTimeoutReg mclks.toNat).setWidth 32) 0 0 s) := by
  change execEncTimeout mclks 0 s = _
  rw [execEncTimeout, field_whole]
  rfl

/-- DEC_TIMEOUT of any 16-bit value replies (40_timing_converter.md R106). -/
theorem exec_decTimeout {reg : Word} (hreg : reg.toNat < 65536) (s : State) :
    exec (.decTimeout reg 0) s = replyNarrowed (decodeTimeoutExact (field reg 7 0) (field reg 15 8)) s :=
  guardOperands_of_fits (by decide) (by decide) hreg (by decide) s _

/-- Settles O20. -/
theorem encodedTimeoutIsCanonical : Obligations.EncodedTimeoutIsCanonical := by
  refine fun s => ⟨fun mclks => ⟨_, exec_encTimeout mclks s, ?_⟩,
    fun reg hreg => ⟨_, _, exec_decTimeout hreg s⟩⟩
  rw [BitVec.toNat_setWidth_of_le (by decide)]
  exact (encodeTimeoutReg_canonical mclks.isLt).imp_left fun hzero => by rw [hzero]; rfl

/-! ## The pseudo-instructions of two commands -/

/-- US_TO_MCLK with a nonzero divisor replies (40_timing_converter.md R104). -/
theorem exec_usToMclk (us : Word) {mp : Word} (hmp : mp.toNat ≠ 0) (s : State) :
    exec (.usToMclk us mp) s = replyNarrowed (usToMclkExact us.toNat mp.toNat) s := by
  change execUsToMclk us mp s = _
  rw [execUsToMclk, field_whole, field_whole, if_neg hmp]

/-- Two commands that answer, the second made from the first one's `Y0`, are what the pseudo-instruction answers
(30_encoding.md R80). -/
theorem twoStep_run {i : Instr} {j : Word → Instr} {s s1 s2 : State} {r1 r2 : Response} (hfirst : exec i s = .next s1)
    (hr1 : s1.response = some r1) (hsecond : exec (j r1.y0) s1 = .next s2) (hr2 : s2.response = some r2) :
    TwoStep.run ⟨encode i, fun y0 => encode (j y0)⟩ s = some (r1, r2, s2) := by
  simp only [TwoStep.run, runCommand_of_decode (decode_encode _), hfirst, hr1, hsecond, hr2, Option.map_some]

/-- A pseudo-instruction answers both its commands' responses with CODE 0x00 where both commands reply in every state. -/
theorem twoStep_answersBoth {i : Instr} {j : Word → Instr}
    (hi : ∀ s, ∃ ovf y0, exec i s = .next (afterReply ovf y0 0 0 s))
    (hj : ∀ y s, ∃ ovf y0, exec (j y) s = .next (afterReply ovf y0 0 0 s)) (s : State) :
    ∃ r1 r2 s1 s2, exec i s = .next s1 ∧ s1.response = some r1 ∧ exec (j r1.y0) s1 = .next s2 ∧
      s2.response = some r2 ∧ TwoStep.run ⟨encode i, fun y0 => encode (j y0)⟩ s = some (r1, r2, s2) ∧
      r1.code = 0x00 ∧ r2.code = 0x00 := by
  obtain ⟨ovf1, y1, hfirst⟩ := hi s
  obtain ⟨ovf2, y2, hsecond⟩ := hj y1 (afterReply ovf1 y1 0 0 s)
  exact ⟨_, _, _, _, hfirst, rfl, hsecond, rfl, twoStep_run hfirst rfl hsecond rfl, rfl, rfl⟩

/-- Settles O49: the commands of both pseudo-instructions reply where the divisor, or the encoding, is in range. -/
theorem twoStepMacrosAnswerBoth : Obligations.TwoStepMacrosAnswerBoth := by
  refine fun s x mp => ⟨fun hmp => ?_, fun hx => ?_⟩
  · exact twoStep_answersBoth (j := fun y0 => .encTimeout y0 0) (fun s => ⟨_, _, exec_usToMclk x hmp s⟩)
      (fun y s => ⟨_, _, exec_encTimeout y s⟩) s
  · exact twoStep_answersBoth (j := fun y0 => .mclkToUs y0 mp) (fun s => ⟨_, _, exec_decTimeout hx s⟩)
      (fun _ _ => ⟨_, _, rfl⟩) s

/-! ## RD_LOAD and RD_DECODE -/

/-- The distance correction of a 16-bit range fits 16 bits (30_encoding.md R76). -/
theorem gain_lt {rawMm : Nat} (h : rawMm < 2 ^ 16) : gain rawMm < 2 ^ 16 := by
  simp only [gain, gainNum, gainRound, gainDen]
  omega

/-- A one-byte field whose byte is written reads as that byte's number. -/
theorem readCapByte_of_value {off n : Nat} {b : Option Byte} (h : b.map BitVec.toNat = some n) :
    (readCapByte off b).toNat = n := by
  obtain ⟨x, rfl, rfl⟩ := Option.map_eq_some_iff.mp h
  rfl

/-- The response of RD_DECODE packs the numbers stored in CAP (30_encoding.md R78, 41_result_decoder.md R122). -/
theorem decodeResponse_of_stored {c : Cap} {raw sc spads ambient range peak : Nat}
    (hraw : c.stored .rangeStatus = some raw) (hsc : c.stored .streamCount = some sc)
    (hspads : c.stored .effSpads = some spads) (hambient : c.stored .ambient = some ambient)
    (hrange : c.stored .finalRange = some range) (hpeak : c.stored .peakRate = some peak) :
    decodeResponse c =
      okResponse (BitVec.ofNat 32 (raw * 2 ^ 24 + (mux raw sc).code.toNat * 2 ^ 16 + gain range))
        (BitVec.ofNat 32 (ambient * 2 ^ 16 + peak)) (BitVec.ofNat 32 (sc * 2 ^ 16 + spads)) := by
  rw [← readCapByte_of_value (off := 0) hraw, ← readCapByte_of_value (off := 2) hsc,
    ← readCapField16_of_value (off := 3) hspads, ← readCapField16_of_value (off := 7) hambient,
    ← readCapField16_of_value (off := 13) hrange, ← readCapField16_of_value (off := 15) hpeak]
  have hgain := gain_lt (readCapField16 13 c.finalRange).isLt
  rw [decodeResponse]
  congr 1
  · rw [append_append_eq_ofNat, BitVec.toNat_ofNat, Nat.mod_eq_of_lt hgain]
  · exact append_eq_ofNat _ _
  · rw [append_append_eq_ofNat, BitVec.toNat_ofNat, Nat.zero_mod, Nat.zero_mul, Nat.zero_add]

/-- A 16-bit field with both bytes written makes their number, the high byte first (20_memory.md R43). -/
theorem field16_value_of_bytes {f : Field16} {hi lo : Byte} (hhi : f.hi = some hi) (hlo : f.lo = some lo) :
    f.value? = some (hi.toNat * 256 + lo.toNat) := by
  simp only [Field16.value?, hhi, hlo]

/-- `bytes` were pushed since the last RD_START: CURSOR counts them and CAP has those at the kept offsets
(20_memory.md R41, R42). -/
def HasCaptured (bytes : List Byte) (s : State) : Prop :=
  s.cursor.toNat = bytes.length ∧ ∀ off ∈ keptOffsets, off < bytes.length → s.cap.byteAt off = bytes[off]?

theorem HasCaptured.cursor {bytes : List Byte} {s : State} (hs : HasCaptured bytes s) :
    s.cursor.toNat = bytes.length := And.left hs

/-- A write at CURSOR that moves CURSOR on captures one more byte. -/
theorem HasCaptured.push {bytes : List Byte} {x : Byte} {s t : State} (hs : HasCaptured bytes s)
    (hwrite : s.cap.memWrite s.cursor.toNat x = some t.cap) (hcursor : t.cursor.toNat = s.cursor.toNat + 1) :
    HasCaptured (bytes ++ [x]) t := by
  obtain ⟨hcount, hbytes⟩ := hs
  rw [hcount] at hwrite
  refine ⟨by rw [hcursor, hcount, List.length_append, List.length_singleton], fun off hkept hlt => ?_⟩
  rw [List.length_append, List.length_singleton] at hlt
  by_cases hoff : off = bytes.length
  · subst hoff
    rw [memWrite_byteAt_same hwrite hkept, List.getElem?_concat_length]
  · have hold : off < bytes.length := by omega
    rw [memWrite_byteAt_other hwrite hoff, hbytes off hkept hold, List.getElem?_append_left hold]

/-- A captured block has its byte at every kept offset. -/
theorem HasCaptured.byteAt {x : Vector Byte 17} {s : State} (hs : HasCaptured x.toList s) (off : Nat) (hoff : off < 17)
    (hkept : off ∈ keptOffsets) : s.cap.byteAt off = some x[off] := by
  obtain ⟨-, hbytes⟩ := hs
  rw [hbytes off hkept (by simpa using hoff)]
  simp [hoff]

/-- The fields of a captured block, by the layout of 20_memory.md R41, and their packing by 30_encoding.md R78. -/
theorem HasCaptured.decodeResponse_eq {x : Vector Byte 17} {s : State} (hs : HasCaptured x.toList s) :
    decodeResponse s.cap =
      okResponse
        (BitVec.ofNat 32 (x[0].toNat * 2 ^ 24 + (mux x[0].toNat x[2].toNat).code.toNat * 2 ^ 16 +
          gain (x[13].toNat * 256 + x[14].toNat)))
        (BitVec.ofNat 32 ((x[7].toNat * 256 + x[8].toNat) * 2 ^ 16 + (x[15].toNat * 256 + x[16].toNat)))
        (BitVec.ofNat 32 (x[2].toNat * 2 ^ 16 + (x[3].toNat * 256 + x[4].toNat))) :=
  decodeResponse_of_stored
    (congrArg (Option.map BitVec.toNat) (hs.byteAt 0 (by decide) (by decide)))
    (congrArg (Option.map BitVec.toNat) (hs.byteAt 2 (by decide) (by decide)))
    (field16_value_of_bytes (hs.byteAt 3 (by decide) (by decide)) (hs.byteAt 4 (by decide) (by decide)))
    (field16_value_of_bytes (hs.byteAt 7 (by decide) (by decide)) (hs.byteAt 8 (by decide) (by decide)))
    (field16_value_of_bytes (hs.byteAt 13 (by decide) (by decide)) (hs.byteAt 14 (by decide) (by decide)))
    (field16_value_of_bytes (hs.byteAt 15 (by decide) (by decide)) (hs.byteAt 16 (by decide) (by decide)))

/-- A push in range below CURSOR 17 writes its byte at CURSOR and replies the new CURSOR (41_result_decoder.md R121). -/
theorem exec_rdPush {a b : Word} {s : State} (ha : a.toNat < 256) (hb : b.toNat = 0) (hcursor : s.cursor.toNat < 17) :
    ∃ cap, s.cap.memWrite s.cursor.toNat (BitVec.ofNat 8 a.toNat) = some cap ∧
      exec (.rdPush a b) s = reply ((s.cursor + 1).setWidth 32) { s with cap := cap, cursor := s.cursor + 1 } := by
  obtain ⟨cap, hwrite⟩ :=
    Option.isSome_iff_exists.mp ((memWrite_isSome_iff _ (BitVec.ofNat 8 a.toNat) s.cap).mpr hcursor)
  have hnotFull : s.cursor.toNat ≠ resultBlockLen := hcursor.ne
  refine ⟨cap, hwrite, ?_⟩
  change execRdPush a b s = _
  rw [execRdPush, guardOperands_of_fits (by decide) (by decide) ha (by omega), if_neg hnotFull, field_of_fits ha,
    hwrite]

/-- At CURSOR 17 RD_DECODE responds from CAP and writes no state (41_result_decoder.md R122). -/
theorem exec_rdDecode_of_full {a b : Word} {s : State} (ha : a.toNat = 0) (hb : b.toNat = 0)
    (hcursor : s.cursor.toNat = 17) : exec (.rdDecode a b) s = .next (s.respond (decodeResponse s.cap)) := by
  have hfull : s.cursor.toNat = resultBlockLen := hcursor
  change execRdDecode a b s = _
  rw [execRdDecode, guardOperands_of_fits (by decide) (by decide) (by omega) (by omega), if_pos hfull]

/-- The step that takes an instruction's own command executes the instruction. -/
theorem step_of_port_encode {s : State} {i : Instr} {rest : List HostInput}
    (hport : s.port = .command (encode i) :: rest) : step s = exec i { s with port := rest } :=
  stepRunsTheDecodedInstruction s (encode i) rest i hport (decode_encode i)

/-- The step that takes a byte's push while there is room captures that byte. -/
theorem step_pushCommand {captured : List Byte} {x : Byte} {s : State} {rest : List HostInput}
    (hs : HasCaptured captured s) (hroom : captured.length < 17) (hport : s.port = .command (pushCommand x) :: rest) :
    ∃ t, step s = .next t ∧ HasCaptured (captured ++ [x]) t ∧ t.flt = s.flt ∧ t.port = rest := by
  have hcursor : s.cursor.toNat < 17 := hs.cursor ▸ hroom
  have hnum : (x.setWidth 32 : Word).toNat = x.toNat := BitVec.toNat_setWidth_of_le (by decide)
  obtain ⟨cap, hwrite, hexec⟩ :=
    exec_rdPush (a := x.setWidth 32) (b := 0) (s := { s with port := rest }) (hnum ▸ x.isLt) rfl hcursor
  rw [hnum, BitVec.ofNat_toNat, BitVec.setWidth_eq] at hwrite
  exact ⟨_, (step_of_port_encode hport).trans hexec, hs.push hwrite (cursor_succ_toNat hcursor), rfl, rfl⟩

/-- Steps that take pushes of `bytes`, as many as there is room for, capture them in order. -/
theorem run_pushCommands {rest : List HostInput} (k : Nat) (bytes captured : List Byte) (s : State)
    (hs : HasCaptured captured s) (hroom : captured.length + bytes.length ≤ 17)
    (hport : s.port = bytes.map (fun x => .command (pushCommand x)) ++ rest) :
    ∃ t, Sys2Proof.core.run (bytes.length + k) s = Sys2Proof.core.run k t ∧ HasCaptured (captured ++ bytes) t ∧
      t.flt = s.flt ∧ t.port = rest := by
  induction bytes generalizing captured s with
  | nil => exact ⟨s, by rw [List.length_nil, Nat.zero_add], by rwa [List.append_nil], rfl, hport⟩
  | cons x bytes ih =>
    rw [List.length_cons] at hroom
    obtain ⟨t, hstep, ht, hflt, htport⟩ := step_pushCommand hs (by omega) hport
    have hroom' : (captured ++ [x]).length + bytes.length ≤ 17 := by
      rw [List.length_append, List.length_singleton]
      omega
    obtain ⟨u, hrun, hu, huflt, huport⟩ := ih (captured ++ [x]) t ht hroom' htport
    refine ⟨u, ?_, by rwa [List.append_assoc] at hu, huflt.trans hflt, huport⟩
    rw [List.length_cons, Nat.add_right_comm, run_succ_of_step Sys2Proof.core hstep, hrun]

/-- RD_START empties the capture (41_result_decoder.md R120). -/
theorem step_rdStart {s : State} {rest : List HostInput} (hport : s.port = .command (encode (.rdStart 0 0)) :: rest) :
    ∃ t, step s = .next t ∧ HasCaptured [] t ∧ t.flt = s.flt ∧ t.port = rest :=
  ⟨_, step_of_port_encode hport, ⟨rfl, fun _ _ hlt => absurd hlt (Nat.not_lt_zero _)⟩, rfl, rfl⟩

/-- RD_DECODE after a whole block responds from CAP and leaves the block captured. -/
theorem step_rdDecode {s : State} {rest : List HostInput} (hcursor : s.cursor.toNat = 17)
    (hport : s.port = .command (encode (.rdDecode 0 0)) :: rest) :
    step s = .next ({ s with port := rest }.respond (decodeResponse s.cap)) :=
  (step_of_port_encode hport).trans (exec_rdDecode_of_full rfl rfl hcursor)

/-- Settles O37: one step empties the capture, 17 capture the block, and the last responds from it. -/
theorem loadedBlockDecodes : Obligations.LoadedBlockDecodes := by
  intro s x rest hport
  have hports : s.port = .command (encode (.rdStart 0 0)) ::
      (x.toList.map (fun b => .command (pushCommand b)) ++ .command (encode (.rdDecode 0 0)) :: rest) := by
    rw [hport]
    simp [rdLoad, Function.comp_def]
  obtain ⟨s1, hstart, hempty, hflt1, hport1⟩ := step_rdStart hports
  obtain ⟨s2, hpushes, hblock, hflt2, hport2⟩ :=
    run_pushCommands 1 x.toList [] s1 hempty (by simp) hport1
  rw [List.nil_append] at hblock
  have hcursor : s2.cursor.toNat = 17 := hblock.cursor.trans x.length_toList
  rw [Vector.length_toList] at hpushes
  have hrun : Sys2Proof.core.run 19 s = .next ({ s2 with port := rest }.respond (decodeResponse s2.cap)) :=
    calc Sys2Proof.core.run 19 s = Sys2Proof.core.run 18 s1 := run_succ_of_step Sys2Proof.core hstart
      _ = Sys2Proof.core.run 1 s2 := hpushes
      _ = _ := run_succ_of_step Sys2Proof.core (step_rdDecode hcursor hport2)
  refine ⟨_, hrun, hcursor, hflt2.trans hflt1, rfl, ?_⟩
  rw [respond_response, hblock.decodeResponse_eq]
  rfl

end Sys2Proof.Proofs
end

section
/-! Proofs for the statements of 40_timing_converter.md: what each TC command answers (R101 to R106), the round trip
through the timeout encoding (R107), and the rounding of the two conversions (R108). -/
namespace Sys2Proof.Proofs
open Sys2Proof.Machine Sys2Proof.Statements

/-! ## Narrowed replies and operand faults -/

/-- A narrowed reply presents the exact result modulo 2^32 with its OVF (40_timing_converter.md R100). -/
theorem replyNarrowed_eq_afterReply (t : Nat) (s : State) :
    replyNarrowed t s = .next (afterReply (decide (2 ^ 32 ≤ t)) (BitVec.ofNat 32 t) 0 0 s) := rfl

/-- An instruction with an operand out of range leaves the state of OPERAND_RANGE (30_encoding.md R64, R65). -/
theorem exec_eq_operandRange {i : Instr} (hill : i.wellFormed = false) (s : State) :
    exec i s = .next (afterFault 0x02 s) := by
  rw [exec_of_not_wellFormed hill, raiseFault_eq_afterFault]
  rfl

/-! ## MACRO_PERIOD -/

/-- The steps of MACRO_PERIOD as divisions and multiplications, in order (40_timing_converter.md R101). -/
theorem macroPeriodExact_eq (vcsel fosc : Nat) :
    macroPeriodExact vcsel fosc = 2 ^ 30 / fosc * 2304 / 64 * ((vcsel + 1) * 2) / 64 := by
  simp only [macroPeriodExact, pllNumerator, macroPeriodVcselPeriods, Nat.shiftRight_eq_div_pow]

/-- With operands in range MACRO_PERIOD faults on a zero frequency only (40_timing_converter.md R101). -/
theorem exec_macroPeriod {vcsel fosc : Word} (hvcsel : vcsel.toNat < 256) (hfosc : fosc.toNat < 65536) (s : State) :
    exec (.macroPeriod vcsel fosc) s =
      if fosc.toNat = 0 then raiseFault .divZero s
      else replyNarrowed (macroPeriodExact vcsel.toNat fosc.toNat) s := by
  change execMacroPeriod vcsel fosc s = _
  rw [execMacroPeriod, guardOperands_of_fits (by decide) (by decide) hvcsel hfosc, field_of_fits (hi := 7) hvcsel,
    field_of_fits (hi := 15) hfosc]

/-- A MACRO_PERIOD operand that does not fit its field is out of range (30_encoding.md R67, R68). -/
theorem macroPeriod_not_wellFormed {vcsel fosc : Word} (hrange : 256 ≤ vcsel.toNat ∨ 65536 ≤ fosc.toNat) :
    (Instr.macroPeriod vcsel fosc).wellFormed = false := by
  simpa [Instr.wellFormed, fitsField, imp_iff_not_or] using hrange

/-- Settles O14. -/
theorem macroPeriodResult : Obligations.MacroPeriodResult := by
  refine fun s a b => ⟨decode_encode (.macroPeriod a b), fun ha hb hne => ?_,
    fun hrange => exec_eq_operandRange (macroPeriod_not_wellFormed hrange) s, fun ha hzero => ?_⟩
  · rw [exec_macroPeriod ha hb, if_neg hne, macroPeriodExact_eq, replyNarrowed_eq_afterReply]
  · rw [exec_macroPeriod ha (by omega), if_pos hzero, raiseFault_eq_afterFault]
    rfl

/-- The first shift drops no bits, because 2304 = 36 * 64, so both shifts may be joined after the multiplications
(40_timing_converter.md R102). -/
theorem macroPeriodExact_joined (vcsel fosc : Nat) :
    macroPeriodExact vcsel fosc = 2 ^ 30 / fosc * 2304 * ((vcsel + 1) * 2) / 2 ^ 12 := by
  rw [macroPeriodExact_eq]
  generalize 2 ^ 30 / fosc = pll
  generalize (vcsel + 1) * 2 = pclks
  have hexact : pll * 2304 / 64 = pll * 36 := by omega
  calc pll * 2304 / 64 * pclks / 64 = pll * 36 * pclks / 64 := by rw [hexact]
    _ = pll * 36 * pclks * 64 / (64 * 64) := (Nat.mul_div_mul_right _ _ (by decide)).symm
    _ = pll * 2304 * pclks / 2 ^ 12 := by ring_nf

/-- Settles O15. -/
theorem macroPeriodShiftOrder : Obligations.MacroPeriodShiftOrder :=
  ⟨macroPeriodExact_joined, by decide, by decide, by decide⟩

/-! ## The two conversions -/

/-- The shift of MCLK_TO_US as a division (40_timing_converter.md R103). -/
theorem mclkToUsExact_eq (mclks mp : Nat) : mclkToUsExact mclks mp = (mclks * mp + 0x800) / 2 ^ 12 :=
  Nat.shiftRight_eq_div_pow _ _

/-- The shifts of US_TO_MCLK as a multiplication and a division (40_timing_converter.md R104). -/
theorem usToMclkExact_eq (us mp : Nat) : usToMclkExact us mp = (us * 2 ^ 12 + mp / 2) / mp := by
  rw [usToMclkExact, Nat.shiftLeft_eq, Nat.shiftRight_eq_div_pow, Nat.pow_one]

/-- Settles O16: no operand check and no fault stand before the reply. -/
theorem mclkToUsResult : Obligations.MclkToUsResult := by
  refine fun s a b => ⟨decode_encode (.mclkToUs a b), ?_⟩
  change execMclkToUs a b s = _
  rw [execMclkToUs, field_whole, field_whole, mclkToUsExact_eq, replyNarrowed_eq_afterReply]

/-- US_TO_MCLK with a zero divisor raises DIV_ZERO (40_timing_converter.md R104). -/
theorem exec_usToMclk_of_zero (us : Word) {mp : Word} (hmp : mp.toNat = 0) (s : State) :
    exec (.usToMclk us mp) s = raiseFault .divZero s := by
  change execUsToMclk us mp s = _
  rw [execUsToMclk, field_whole, if_pos hmp]

/-- Settles O17. -/
theorem usToMclkResult : Obligations.UsToMclkResult := by
  refine fun s a b => ⟨decode_encode (.usToMclk a b), fun hne => ?_, fun hzero => ?_⟩
  · rw [exec_usToMclk a hne, usToMclkExact_eq, replyNarrowed_eq_afterReply]
  · rw [exec_usToMclk_of_zero a hzero, raiseFault_eq_afterFault]
    rfl

/-- MCLK_TO_US rounds the exact quotient half up (40_timing_converter.md R108). -/
theorem mclkToUsExact_eq_floor (mclks mp : Nat) :
    mclkToUsExact mclks mp = ⌊(mclks * mp : ℚ) / 4096 + 1 / 2⌋₊ := by
  have hquot : (mclks * mp : ℚ) / 4096 + 1 / 2 = ((mclks * mp + 0x800 : ℕ) : ℚ) / (2 ^ 12 : ℕ) := by
    push_cast
    ring
  rw [hquot, Nat.floor_div_eq_div, mclkToUsExact_eq]

/-- US_TO_MCLK rounds the exact quotient half up, although it adds the rounded half of the divisor
(40_timing_converter.md R108). -/
theorem usToMclkExact_eq_floor (us : Nat) {mp : Nat} (hmp : 0 < mp) :
    usToMclkExact us mp = ⌊(us * 4096 : ℚ) / mp + 1 / 2⌋₊ := by
  have hquot : (us * 4096 : ℚ) / mp + 1 / 2 = ((2 * (us * 4096) + mp : ℕ) : ℚ) / (2 * mp : ℕ) := by
    push_cast
    field_simp
  have hhalf : us * 2 ^ 12 + mp / 2 = (2 * (us * 4096) + mp) / 2 := by omega
  rw [hquot, Nat.floor_div_eq_div, usToMclkExact_eq, hhalf, Nat.div_div_eq_div_mul]

/-- Rounding half up moves a number by at most a half. -/
theorem abs_floor_add_half_sub_le {x : ℚ} (hx : 0 ≤ x) : |(⌊x + 1 / 2⌋₊ : ℚ) - x| ≤ 1 / 2 := by
  have hle : (⌊x + 1 / 2⌋₊ : ℚ) ≤ x + 1 / 2 := Nat.floor_le (by positivity)
  have hlt : x + 1 / 2 < ⌊x + 1 / 2⌋₊ + 1 := Nat.lt_floor_add_one _
  rw [abs_le]
  constructor <;> linarith

/-- MCLK_TO_US is within 1/2 of the exact quotient (40_timing_converter.md R108). -/
theorem abs_mclkToUsExact_sub_le (mclks mp : Nat) :
    |(mclkToUsExact mclks mp : ℚ) - mclks * mp / 4096| ≤ 1 / 2 := by
  rw [mclkToUsExact_eq_floor]
  exact abs_floor_add_half_sub_le (by positivity)

/-- US_TO_MCLK is within 1/2 of the exact quotient (40_timing_converter.md R108). -/
theorem abs_usToMclkExact_sub_le (us : Nat) {mp : Nat} (hmp : 0 < mp) :
    |(usToMclkExact us mp : ℚ) - us * 4096 / mp| ≤ 1 / 2 := by
  rw [usToMclkExact_eq_floor us hmp]
  exact abs_floor_add_half_sub_le (by positivity)

/-- The first conversion's error of half a count is mp / 8192 microseconds, and the second adds its own half
(40_timing_converter.md R108). -/
theorem abs_conversion_round_trip_sub_le (us : Nat) {mp : Nat} (hmp : 0 < mp) :
    |(mclkToUsExact (usToMclkExact us mp) mp : ℚ) - us| ≤ (mp : ℚ) / 8192 + 1 / 2 := by
  have hback := abs_mclkToUsExact_sub_le (usToMclkExact us mp) mp
  have hthere := abs_usToMclkExact_sub_le us hmp
  generalize usToMclkExact us mp = n at hback hthere ⊢
  have hscaled : |(n * mp / 4096 : ℚ) - us| ≤ mp / 8192 :=
    calc |(n * mp / 4096 : ℚ) - us| = |((n : ℚ) - us * 4096 / mp) * (mp / 4096)| := by
          congr 1
          field_simp
      _ = |(n : ℚ) - us * 4096 / mp| * (mp / 4096) := by
          rw [abs_mul, abs_of_nonneg (by positivity : (0 : ℚ) ≤ mp / 4096)]
      _ ≤ 1 / 2 * (mp / 4096) := by gcongr
      _ = mp / 8192 := by ring
  calc |(mclkToUsExact n mp : ℚ) - us|
      ≤ |(mclkToUsExact n mp : ℚ) - n * mp / 4096| + |(n * mp / 4096 : ℚ) - us| := abs_sub_le _ _ _
    _ ≤ 1 / 2 + mp / 8192 := add_le_add hback hscaled
    _ = mp / 8192 + 1 / 2 := add_comm _ _

/-- Settles O22. -/
theorem conversionsRoundHalfUp : Obligations.ConversionsRoundHalfUp := fun us mclks mp =>
  ⟨mclkToUsExact_eq_floor mclks mp, fun hmp =>
    ⟨usToMclkExact_eq_floor us hmp, abs_conversion_round_trip_sub_le us hmp⟩⟩

/-! ## ENC_TIMEOUT -/

/-- The loop's exponent is the bits of the count less one beyond eight (40_timing_converter.md R105). -/
theorem encodeFields_exponent {n : Nat} (hn : n < 2 ^ 32) : (encodeFields n).1 = Nat.size (n - 1) - 8 := by
  obtain ⟨hmant, hfit, -, hleast⟩ := encodeFields_spec hn
  apply le_antisymm
  · cases hexp : (encodeFields n).1 with
    | zero => exact Nat.zero_le _
    | succ k =>
      have hbig : 2 ^ 8 ≤ (n - 1) / 2 ^ k := hleast k (by omega)
      rw [Nat.le_div_iff_mul_le (by positivity), ← Nat.pow_add, ← Nat.lt_size] at hbig
      omega
  · have hsmall : (n - 1) / 2 ^ (encodeFields n).1 < 2 ^ 8 := by omega
    rw [Nat.div_lt_iff_lt_mul (by positivity), ← Nat.pow_add, ← Nat.size_le] at hsmall
    omega

/-- The mantissa of the closed form fits its byte (40_timing_converter.md R105). -/
theorem div_pow_size_sub_lt (k : Nat) : k / 2 ^ (Nat.size k - 8) < 256 := by
  apply Nat.div_lt_of_lt_mul
  change k < 2 ^ (Nat.size k - 8) * 2 ^ 8
  rw [← Nat.pow_add, ← Nat.size_le]
  omega

/-- The encoding in closed form, a zero count included (40_timing_converter.md R105). -/
theorem encodeTimeoutReg_eq_closedForm {n : Nat} (hn : n < 2 ^ 32) :
    (encodeTimeoutReg n).toNat = (Nat.size (n - 1) - 8) * 256 + (n - 1) / 2 ^ (Nat.size (n - 1) - 8) := by
  by_cases hzero : n = 0
  · subst hzero
    rfl
  · rw [encodeTimeoutReg_toNat hn hzero, (encodeFields_spec hn).1, encodeFields_exponent hn]

/-- Settles O18. -/
theorem encTimeoutResult : Obligations.EncTimeoutResult := by
  refine fun s a b => ⟨decode_encode (.encTimeout a b), fun hzero => ?_, fun hne => exec_eq_operandRange ?_ s⟩
  · obtain rfl : b = 0 := BitVec.eq_of_toNat_eq hzero
    rw [exec_encTimeout, ← BitVec.ofNat_toNat, encodeTimeoutReg_eq_closedForm a.isLt]
  · simpa [Instr.wellFormed, fitsField] using hne

/-! ## DEC_TIMEOUT -/

/-- The two fields of a 16-bit encoding are its low and its high byte (40_timing_converter.md R106). -/
theorem decodeTimeoutExact_fields {reg : Word} (hreg : reg.toNat < 65536) :
    decodeTimeoutExact (field reg 7 0) (field reg 15 8) = reg.toNat % 256 * 2 ^ (reg.toNat / 256) + 1 := by
  have hexp : field reg 15 8 = reg.toNat / 256 := Nat.mod_eq_of_lt (Nat.div_lt_of_lt_mul hreg)
  rw [decodeTimeoutExact, Nat.shiftLeft_eq, field_eq_mod, hexp]
  rfl

/-- DEC_TIMEOUT of a 16-bit encoding replies the decoded count, narrowed (40_timing_converter.md R106). -/
theorem exec_decTimeout_eq_afterReply {reg : Word} (hreg : reg.toNat < 65536) {t : Nat}
    (ht : reg.toNat % 256 * 2 ^ (reg.toNat / 256) + 1 = t) (s : State) :
    exec (.decTimeout reg 0) s = .next (afterReply (decide (2 ^ 32 ≤ t)) (BitVec.ofNat 32 t) 0 0 s) := by
  rw [exec_decTimeout hreg, decodeTimeoutExact_fields hreg, ht, replyNarrowed_eq_afterReply]

/-- A DEC_TIMEOUT operand with a nonzero must-be-0 bit is out of range (30_encoding.md R65). -/
theorem decTimeout_not_wellFormed {a b : Word} (hrange : 65536 ≤ a.toNat ∨ b.toNat ≠ 0) :
    (Instr.decTimeout a b).wellFormed = false := by
  simpa [Instr.wellFormed, fitsField, imp_iff_not_or] using hrange

/-- Settles O19. -/
theorem decTimeoutResult : Obligations.DecTimeoutResult := by
  refine fun s a b => ⟨decode_encode (.decTimeout a b), fun ha hzero => ?_,
    fun hrange => exec_eq_operandRange (decTimeout_not_wellFormed hrange) s⟩
  obtain rfl : b = 0 := BitVec.eq_of_toNat_eq hzero
  exact exec_decTimeout_eq_afterReply ha rfl s

/-! ## The round trip through the timeout encoding -/

/-- The exponent of an encoding, its high byte (40_timing_converter.md R107). -/
theorem encodeTimeoutReg_div {n : Nat} (hn : n < 2 ^ 32) :
    (encodeTimeoutReg n).toNat / 256 = Nat.size (n - 1) - 8 := by
  rw [encodeTimeoutReg_eq_closedForm hn, Nat.add_comm, Nat.add_mul_div_right _ _ (by decide),
    Nat.div_eq_of_lt (div_pow_size_sub_lt _), Nat.zero_add]

/-- The mantissa of an encoding, its low byte: the count less one without the bits below the exponent
(40_timing_converter.md R107). -/
theorem encodeTimeoutReg_mod {n : Nat} (hn : n < 2 ^ 32) :
    (encodeTimeoutReg n).toNat % 256 = (n - 1) / 2 ^ ((encodeTimeoutReg n).toNat / 256) := by
  rw [encodeTimeoutReg_div hn, encodeTimeoutReg_eq_closedForm hn, Nat.add_comm, Nat.add_mul_mod_self_right,
    Nat.mod_eq_of_lt (div_pow_size_sub_lt _)]

/-- DEC_TIMEOUT of an encoding returns the count less one without the bits below the exponent, plus one, and OVF = 0
(40_timing_converter.md R107). -/
theorem exec_decTimeout_of_encoded {n : Nat} (hn : n < 2 ^ 32) {reg : Word}
    (hreg : reg.toNat = (encodeTimeoutReg n).toNat) (s : State) :
    ∃ v, exec (.decTimeout reg 0) s = .next (afterReply false v 0 0 s) ∧
      v.toNat = (n - 1) / 2 ^ (reg.toNat / 256) * 2 ^ (reg.toNat / 256) + 1 := by
  have hmant : reg.toNat % 256 = (n - 1) / 2 ^ (reg.toNat / 256) := by rw [hreg, encodeTimeoutReg_mod hn]
  have hreg16 : reg.toNat < 65536 := hreg ▸ (encodeTimeoutReg n).isLt
  have hle := Nat.div_mul_le_self (n - 1) (2 ^ (reg.toNat / 256))
  have hfits : (n - 1) / 2 ^ (reg.toNat / 256) * 2 ^ (reg.toNat / 256) + 1 < 2 ^ 32 := by omega
  refine ⟨_, ?_, (BitVec.toNat_ofNat _ _).trans (Nat.mod_eq_of_lt hfits)⟩
  rw [exec_decTimeout_eq_afterReply hreg16 (by rw [hmant]), decide_eq_false hfits.not_ge]

/-- Dropping the remainder modulo `d` from a count less one makes the count smaller by less than `d`, and keeps it
exactly when that remainder is 0; `d` stands for the power of two of the exponent (40_timing_converter.md R107). -/
theorem count_of_dropped_remainder {n d : Nat} (hn : n ≠ 0) (hd : 0 < d) :
    (n - 1) / d * d + 1 ≤ n ∧ n < (n - 1) / d * d + 1 + d ∧ ((n - 1) / d * d + 1 = n ↔ (n - 1) % d = 0) := by
  have hsplit := Nat.div_add_mod' (n - 1) d
  have hlow := Nat.mod_lt (n - 1) hd
  omega

/-- Counts up to 256 have exponent 0 (40_timing_converter.md R107). -/
theorem encodeTimeoutReg_div_of_le {n : Nat} (hn : n ≤ 256) : (encodeTimeoutReg n).toNat / 256 = 0 := by
  have hsize : Nat.size (n - 1) ≤ 8 := Nat.size_le.mpr (by omega)
  rw [encodeTimeoutReg_div (by omega), Nat.sub_eq_zero_of_le hsize]

/-- Settles O21: both commands succeed, and the rest is about the count with the bits below the exponent dropped. -/
theorem timeoutRoundTrip : Obligations.TimeoutRoundTrip := by
  intro s mclks
  have hreg : ((encodeTimeoutReg mclks.toNat).setWidth 32).toNat = (encodeTimeoutReg mclks.toNat).toNat :=
    BitVec.toNat_setWidth_of_le (by decide)
  have hencode := exec_encTimeout mclks s
  generalize (encodeTimeoutReg mclks.toNat).setWidth 32 = reg at hreg hencode
  obtain ⟨v, hdecode, hv⟩ := exec_decTimeout_of_encoded mclks.isLt hreg (afterReply false reg 0 0 s)
  have hbounds := fun hne => count_of_dropped_remainder (n := mclks.toNat) hne (Nat.two_pow_pos (reg.toNat / 256))
  simp only [← hv, BitVec.toNat_inj] at hbounds
  refine ⟨reg, v, hencode, hdecode, fun hzero => ?_, fun hne => ⟨hv, hbounds hne⟩, fun hpos hle => ?_⟩
  · rw [hv, hzero, Nat.zero_sub, Nat.zero_div, Nat.zero_mul]
  · have hexp : reg.toNat / 256 = 0 := hreg ▸ encodeTimeoutReg_div_of_le hle
    obtain ⟨-, -, hexact⟩ := hbounds (by omega)
    exact ⟨hexp, hexact.mpr (by rw [hexp, Nat.pow_zero, Nat.mod_one])⟩

end Sys2Proof.Proofs
end

section
/-! Proofs for the statements of 41_result_decoder.md: what each RD command answers (R120 to R122, R125, R126), and the
two functions of the decoder, GAIN (R123) and the range-status multiplexer (R124). -/
namespace Sys2Proof.Proofs
open Sys2Proof.Machine Sys2Proof.Statements

/-! ## Replies and operand ranges -/

/-- A reply of one word leaves the state of a success response without overflow (30_encoding.md R62). -/
theorem reply_eq_afterReply (y0 : Word) (s : State) : reply y0 s = .next (afterReply false y0 0 0 s) := rfl

/-- Two operands are not both values of their fields as soon as one is too large (30_encoding.md R65). -/
theorem fitsField_and_eq_false {a b : Word} {la lb : Nat} (hrange : 2 ^ la ≤ a.toNat ∨ 2 ^ lb ≤ b.toNat) :
    (fitsField la a && fitsField lb b) = false := by
  simpa [fitsField, imp_iff_not_or] using hrange

/-! ## RD_PUSH -/

/-- The 5-bit CURSOR after a push, by its number (41_result_decoder.md R121). -/
theorem cursor_succ_eq_ofNat (n : BitVec 5) : n + 1 = BitVec.ofNat 5 (n.toNat + 1) := by
  rw [BitVec.ofNat_add, BitVec.ofNat_toNat, BitVec.setWidth_eq]
  rfl

/-- Below 17 the new CURSOR, as a response word, does not wrap (41_result_decoder.md R121). -/
theorem cursor_succ_setWidth {n : BitVec 5} (h : n.toNat < 17) :
    (n + 1).setWidth 32 = BitVec.ofNat 32 (n.toNat + 1) := by
  rw [← BitVec.ofNat_toNat, cursor_succ_toNat h]

/-- A push in range at CURSOR 17 raises RD_OVERRUN (41_result_decoder.md R121). -/
theorem exec_rdPush_of_full {a b : Word} {s : State} (ha : a.toNat < 256) (hb : b.toNat = 0)
    (hcursor : s.cursor.toNat = 17) : exec (.rdPush a b) s = raiseFault .rdOverrun s := by
  have hfull : s.cursor.toNat = resultBlockLen := hcursor
  change execRdPush a b s = _
  rw [execRdPush, guardOperands_of_fits (by decide) (by decide) ha (by omega), if_pos hfull]

/-- Settles O27: the CAP of the next state is the one that the write at CURSOR makes. -/
theorem rdPushResult : Obligations.RdPushResult := by
  refine fun s a b => ⟨decode_encode (.rdPush a b), fun ha hb hcursor => ?_, fun hrange => ?_,
    fun ha hb hcursor => ?_⟩
  · obtain ⟨cap, hwrite, hexec⟩ := exec_rdPush ha hb hcursor
    refine ⟨cap, ?_, hwrite, memWrite_byteAt_same hwrite, fun off hoff => memWrite_byteAt_other hwrite hoff,
      memWrite_discarded hwrite⟩
    rw [hexec, cursor_succ_setWidth hcursor, cursor_succ_eq_ofNat, reply_eq_afterReply]
  · exact exec_eq_operandRange (i := .rdPush a b) (fitsField_and_eq_false (by omega)) s
  · rw [exec_rdPush_of_full ha hb hcursor, raiseFault_eq_afterFault]
    rfl

/-! ## RD_DECODE -/

/-- RD_DECODE with operands in range raises RD_INCOMPLETE where CURSOR is not 17 (41_result_decoder.md R122). -/
theorem exec_rdDecode_of_not_full {a b : Word} {s : State} (ha : a.toNat = 0) (hb : b.toNat = 0)
    (hcursor : s.cursor.toNat ≠ 17) : exec (.rdDecode a b) s = raiseFault .rdIncomplete s := by
  have hnotFull : s.cursor.toNat ≠ resultBlockLen := hcursor
  change execRdDecode a b s = _
  rw [execRdDecode, guardOperands_of_fits (by decide) (by decide) (by omega) (by omega), if_neg hnotFull]

/-- A field that holds a value has it stored (10_state.md R24). -/
theorem stored_of_capValue {s : State} {f : CapField} {n : Nat} (h : s.capValue f = some n) :
    s.cap.stored f = some n := by
  obtain ⟨-, hstored⟩ := Option.ite_none_right_eq_some.mp h
  exact hstored

/-- Settles O29: the six values are stored in CAP, and the response packs what is stored. -/
theorem rdDecodeResult : Obligations.RdDecodeResult := by
  refine fun s a b => ⟨decode_encode (.rdDecode a b), ?_, fun hrange => ?_, fun ha hb hcursor => ?_⟩
  · intro raw sc spads ambient range peak ha hb hcursor hraw hsc hspads hambient hrange hpeak
    rw [exec_rdDecode_of_full ha hb hcursor,
      decodeResponse_of_stored (stored_of_capValue hraw) (stored_of_capValue hsc) (stored_of_capValue hspads)
        (stored_of_capValue hambient) (stored_of_capValue hrange) (stored_of_capValue hpeak)]
    rfl
  · exact exec_eq_operandRange (i := .rdDecode a b) (fitsField_and_eq_false (by omega)) s
  · rw [exec_rdDecode_of_not_full ha hb hcursor, raiseFault_eq_afterFault]
    rfl

/-! ## GAIN and RD_GAIN -/

/-- GAIN in the numbers of 00_scope.md R7 (41_result_decoder.md R123). -/
theorem gain_eq (rawMm : Nat) : gain rawMm = (rawMm * 2011 + 1024) / 2048 := rfl

/-- GAIN rounds the exact quotient half up (41_result_decoder.md R123). -/
theorem gain_eq_floor (rawMm : Nat) : gain rawMm = ⌊(rawMm * 2011 : ℚ) / 2048 + 1 / 2⌋₊ := by
  have hquot : (rawMm * 2011 : ℚ) / 2048 + 1 / 2 = ((rawMm * 2011 + 1024 : ℕ) : ℚ) / (2048 : ℕ) := by
    push_cast
    ring
  rw [hquot, Nat.floor_div_eq_div, gain_eq]

/-- GAIN is monotone in the range. -/
theorem gain_mono {m n : Nat} (h : m ≤ n) : gain m ≤ gain n := by
  rw [gain_eq, gain_eq]
  gcongr

/-- Settles O34: the bound is GAIN of the largest 16-bit range. -/
theorem gainRoundsAndFits : Obligations.GainRoundsAndFits :=
  ⟨fun rawMm =>
      ⟨gain_eq rawMm, gain_eq_floor rawMm, fun hrange => gain_mono (n := 65535) (Nat.le_of_lt_succ hrange)⟩,
    by decide, by decide, by decide, by decide⟩

/-- RD_GAIN with operands in range replies GAIN of A (41_result_decoder.md R126). -/
theorem exec_rdGain {a b : Word} (ha : a.toNat < 65536) (hb : b.toNat = 0) (s : State) :
    exec (.rdGain a b) s = reply (BitVec.ofNat 32 (gain a.toNat)) s := by
  change execRdGain a b s = _
  rw [execRdGain, guardOperands_of_fits (by decide) (by decide) ha (by omega), field_of_fits ha]

/-- Settles O33. -/
theorem rdGainResult : Obligations.RdGainResult := by
  refine fun s a b => ⟨decode_encode (.rdGain a b), fun ha hb => ?_, fun hrange => ?_⟩
  · rw [exec_rdGain ha hb, gain_eq, reply_eq_afterReply]
  · exact exec_eq_operandRange (i := .rdGain a b) (fitsField_and_eq_false (by omega)) s

/-! ## RD_START -/

/-- RD_START with zero operands empties the capture at any CURSOR (41_result_decoder.md R120). -/
theorem exec_rdStart {a b : Word} (ha : a.toNat = 0) (hb : b.toNat = 0) (s : State) :
    exec (.rdStart a b) s = .next (afterReply false 0 0 0 { s with cursor := 0 }) := by
  change execRdStart a b s = _
  rw [execRdStart, guardOperands_of_fits (by decide) (by decide) (by omega) (by omega), reply_eq_afterReply]

/-- Settles O25: the command has one answer at every CURSOR, so it repeats it after itself. -/
theorem rdStartResult : Obligations.RdStartResult := by
  refine fun s a b => ⟨decode_encode (.rdStart a b), fun ha hb => ?_, fun hrange => ?_⟩
  · exact ⟨_, exec_rdStart ha hb s, rfl, capValue_of_cursor_zero rfl, exec_rdStart ha hb _⟩
  · exact exec_eq_operandRange (i := .rdStart a b) (fitsField_and_eq_false (by omega)) s

/-! ## The multiplexer and RD_MAP_STATUS -/

/-- A raw code outside the multiplexer's rows maps to None (41_result_decoder.md R124). -/
theorem mux_of_not_mem {raw : Nat} (hraw : raw ∉ [1, 2, 3, 4, 5, 6, 7, 8, 9, 12, 13, 17, 18]) (sc : Nat) :
    mux raw sc = .noUpdate := by
  unfold mux
  split
  case h_14 => rfl
  all_goals exact absurd (by decide) hraw

/-- Raw code 9 is a valid range, with or without its wrap check by the stream count (41_result_decoder.md R124). -/
theorem mux_nine (sc : Nat) : mux 9 sc = if sc = 0 then .rangeValidNoWrapCheckFail else .rangeValid := rfl

/-- Settles O31: the rows compute, row 9 by the stream count, and every other raw code falls through. -/
theorem multiplexerTable : Obligations.MultiplexerTable := by
  refine fun sc => ⟨fun raw hraw => ?_, rfl, rfl, rfl, rfl, rfl, fun hzero => ?_, fun hne => ?_, rfl, rfl, rfl,
    fun raw hraw => ?_⟩
  · simp only [List.mem_cons, List.not_mem_nil, or_false] at hraw
    rcases hraw with rfl | rfl | rfl | rfl <;> rfl
  · rw [mux_nine, if_pos hzero]
    rfl
  · rw [mux_nine, if_neg hne]
    rfl
  · rw [mux_of_not_mem hraw]
    rfl

/-- RD_MAP_STATUS with operands in range replies MUX of them (41_result_decoder.md R125). -/
theorem exec_rdMapStatus {a b : Word} (ha : a.toNat < 256) (hb : b.toNat < 256) (s : State) :
    exec (.rdMapStatus a b) s = reply ((mux a.toNat b.toNat).code.setWidth 32) s := by
  change execRdMapStatus a b s = _
  rw [execRdMapStatus, guardOperands_of_fits (by decide) (by decide) ha hb, field_of_fits ha, field_of_fits hb]

/-- Settles O32. -/
theorem rdMapStatusResult : Obligations.RdMapStatusResult := by
  refine fun s a b => ⟨decode_encode (.rdMapStatus a b), fun ha hb => ?_, fun hrange => ?_⟩
  · rw [exec_rdMapStatus ha hb, BitVec.ofNat_toNat, reply_eq_afterReply]
  · exact exec_eq_operandRange (i := .rdMapStatus a b) (fitsField_and_eq_false (by omega)) s

end Sys2Proof.Proofs
end

section
/-! Proofs for the statements of 42_status.md: what STATUS answers (R150). -/
namespace Sys2Proof.Proofs
open Sys2Proof.Machine

/-- The word of STATUS as a number: CURSOR above the eight bits of FLT (42_status.md R150). -/
theorem statusWord_eq_ofNat (s : State) : statusWord s = BitVec.ofNat 32 (s.cursor.toNat * 256 + s.flt.toNat) := by
  rw [statusWord, append_append_eq_ofNat, BitVec.toNat_ofNat, Nat.zero_mod, Nat.zero_mul, Nat.zero_add]
  rfl

/-- STATUS with operands in range replies its word (42_status.md R150). -/
theorem exec_status {a b : Word} (ha : a.toNat = 0) (hb : b.toNat = 0) (s : State) :
    exec (.status a b) s = reply (statusWord s) s := by
  change execStatus a b s = _
  rw [execStatus, guardOperands_of_fits (by decide) (by decide) (by omega) (by omega)]

/-- Settles O38. -/
theorem statusResult : Obligations.StatusResult := by
  refine fun s a b => ⟨decode_encode (.status a b), fun ha hb => ?_, fun hrange => ?_⟩
  · rw [exec_status ha hb, statusWord_eq_ofNat, reply_eq_afterReply]
  · exact exec_eq_operandRange (i := .status a b) (fitsField_and_eq_false (by omega)) s

end Sys2Proof.Proofs
end

section
/-! Proofs for the statements of 60_exceptions.md: what raises a fault (R160, R161, R164), what a fault writes (R162,
R163), that the block never halts (R162) and waits for its host (R165, R169), and its instances (R171). -/
namespace Sys2Proof.Proofs
open Sys2Proof.Machine Sys2Proof.Statements

/-! ## The step never halts -/

/-- Settles O9. -/
theorem emptyPortWaits : Obligations.EmptyPortWaits := by
  intro s hport
  simp only [step, takeInput, hport]

/-- With a reset at the head of the port, the step resets the state without it (70_reset_and_hazards.md R181). -/
theorem step_of_port_reset {s : State} {rest : List HostInput} (hport : s.port = .reset :: rest) :
    step s = .next { s with port := rest }.hostReset := by
  simp only [step, takeInput, hport]

/-- Settles O12, by the oldest input: waiting and a reset answer from every state, a command from a legal CURSOR. -/
theorem blockNeverHalts : Obligations.BlockNeverHalts := by
  intro s hs
  match hport : s.port with
  | [] => exact ⟨s, emptyPortWaits s hport⟩
  | .reset :: rest => exact ⟨_, step_of_port_reset hport⟩
  | .command c :: rest =>
    have htaken : { s with port := rest }.CursorLegal := hs
    obtain ⟨t, hrun⟩ := runCommand_next_of_cursorLegal c htaken
    exact ⟨t, (step_of_port_command hport).trans hrun⟩

/-! ## What a fault writes -/

/-- A command that responds with a nonzero code took a fault, and its next state is that fault's state, whole
(60_exceptions.md R162, R163). -/
theorem eq_afterFault_of_code_ne_zero {c : Command} {s t : State} {r : Response} (hrun : runCommand c s = .next t)
    (hresponse : t.response = some r) (hcode : r.code ≠ 0x00) : t = afterFault r.code s := by
  rcases runCommand_next hrun with ⟨f, hfault⟩ | ⟨i, -, -, -, ⟨r', hresponse', hsuccess⟩, -⟩
  · cases hfault
    cases hresponse
    rfl
  · cases hresponse.symm.trans hresponse'
    exact absurd hsuccess hcode

/-- Settles O39: the fault state has the CURSOR of the state before, so where that is legal any next command answers. -/
theorem faultWritesOnlyFlt : Obligations.FaultWritesOnlyFlt := by
  intro s t c r hrun hresponse hcode
  have hfault := eq_afterFault_of_code_ne_zero hrun hresponse hcode
  refine ⟨hfault, fun hs next => runCommand_next_of_cursorLegal next ?_⟩
  rw [hfault]
  exact hs

/-- No command changes a nonzero FLT (60_exceptions.md R163). -/
theorem runCommand_flt_of_ne_zero {c : Command} {s t : State} (hrun : runCommand c s = .next t) (hflt : s.flt ≠ 0x00) :
    t.flt = s.flt :=
  (runCommand_flt hrun).resolve_right fun ⟨hzero, _⟩ => hflt hzero

/-- Settles O40: the latch is part of the fault state, and of what a step can do only a reset changes a nonzero FLT. -/
theorem firstFaultSticks : Obligations.FirstFaultSticks := by
  refine ⟨fun s t c r hrun hresponse hcode => ?_, fun s t hstep hflt hnoReset => ?_⟩
  · rw [eq_afterFault_of_code_ne_zero hrun hresponse hcode]
    exact ⟨fun hzero => if_pos hzero, fun hne => if_neg hne⟩
  · rcases step_next hstep with ⟨-, rfl⟩ | ⟨rest, hport, -⟩ | ⟨c, rest, -, hrun⟩
    · rfl
    · exact absurd (by rw [hport]; rfl) hnoReset
    · exact runCommand_flt_of_ne_zero (s := { s with port := rest }) hrun hflt

/-! ## What raises a fault -/

/-- Two operands that are values of their fields, as numbers (30_encoding.md R65). -/
theorem fitsField_and_iff {a b : Word} {la lb : Nat} :
    (fitsField la a && fitsField lb b) = true ↔ a.toNat < 2 ^ la ∧ b.toNat < 2 ^ lb := by
  simp [fitsField]

/-- Settles O41: a reserved opcode and an operand out of range fault before anything else is looked at, and each
command's own condition is a clause of what that command answers. -/
theorem faultPriority : Obligations.FaultPriority := by
  intro s c
  obtain ⟨hreserved, hmisfit⟩ := reservedEncodingsFault s c
  refine ⟨hreserved, fun i hdecode => ⟨hmisfit i hdecode, fun hfits => ?_⟩⟩
  rw [runCommand_of_decode hdecode]
  refine ⟨?_, ?_, ?_, ?_⟩
  · rintro a rfl
    obtain ⟨ha, -⟩ := fitsField_and_iff.mp hfits
    obtain ⟨-, -, -, hdivZero⟩ := macroPeriodResult s a 0
    exact hdivZero ha rfl
  · rintro a rfl
    obtain ⟨-, -, hdivZero⟩ := usToMclkResult s a 0
    exact hdivZero rfl
  · rintro a b rfl hfull
    obtain ⟨ha, hb⟩ := fitsField_and_iff.mp hfits
    obtain ⟨-, -, -, hoverrun⟩ := rdPushResult s a b
    exact hoverrun ha (by omega) hfull
  · rintro a b rfl hnotFull
    obtain ⟨ha, hb⟩ := fitsField_and_iff.mp hfits
    obtain ⟨-, -, -, hincomplete⟩ := rdDecodeResult s a b
    exact hincomplete (by omega) (by omega) hnotFull

/-- A word of a field without bits is 0 (30_encoding.md R65). -/
theorem eq_zero_of_lt_one {w : Word} (h : w.toNat < 2 ^ 0) : w = 0 :=
  BitVec.eq_of_toNat_eq (Nat.lt_one_iff.mp h)

/-- Settles O42, by the instruction: past its own condition each one replies. -/
theorem inRangeCommandsSucceed : Obligations.InRangeCommandsSucceed := by
  intro s i hs hfits hmacro hconv hpush hread
  cases i with
  | macroPeriod a b =>
    obtain ⟨ha, hb⟩ := fitsField_and_iff.mp hfits
    have hne : b.toNat ≠ 0 := fun hzero => hmacro a (congrArg _ (BitVec.eq_of_toNat_eq hzero))
    exact ⟨_, _, (exec_macroPeriod ha hb s).trans (if_neg hne), rfl, rfl, rfl⟩
  | mclkToUs a b => exact ⟨_, _, rfl, rfl, rfl, rfl⟩
  | usToMclk a b =>
    have hne : b.toNat ≠ 0 := fun hzero => hconv a (congrArg _ (BitVec.eq_of_toNat_eq hzero))
    exact ⟨_, _, exec_usToMclk a hne s, rfl, rfl, rfl⟩
  | encTimeout a b =>
    obtain rfl : b = 0 := eq_zero_of_lt_one (of_decide_eq_true hfits)
    exact ⟨_, _, exec_encTimeout a s, rfl, rfl, rfl⟩
  | decTimeout a b =>
    obtain ⟨ha, hb⟩ := fitsField_and_iff.mp hfits
    obtain rfl : b = 0 := eq_zero_of_lt_one hb
    exact ⟨_, _, exec_decTimeout ha s, rfl, rfl, rfl⟩
  | rdStart a b =>
    obtain ⟨ha, hb⟩ := fitsField_and_iff.mp hfits
    exact ⟨_, _, exec_rdStart (by omega) (by omega) s, rfl, rfl, rfl⟩
  | rdPush a b =>
    obtain ⟨ha, hb⟩ := fitsField_and_iff.mp hfits
    have hroom : s.cursor.toNat < 17 := lt_of_le_of_ne hs (hpush a b rfl)
    obtain ⟨cap, -, hexec⟩ := exec_rdPush (b := b) ha (by omega) hroom
    exact ⟨_, _, hexec, rfl, rfl, rfl⟩
  | rdDecode a b =>
    obtain ⟨ha, hb⟩ := fitsField_and_iff.mp hfits
    exact ⟨_, _, exec_rdDecode_of_full (by omega) (by omega) (hread a b rfl), rfl, rfl, rfl⟩
  | rdMapStatus a b =>
    obtain ⟨ha, hb⟩ := fitsField_and_iff.mp hfits
    exact ⟨_, _, exec_rdMapStatus ha hb s, rfl, rfl, rfl⟩
  | rdGain a b =>
    obtain ⟨ha, hb⟩ := fitsField_and_iff.mp hfits
    exact ⟨_, _, exec_rdGain ha (by omega) s, rfl, rfl, rfl⟩
  | status a b =>
    obtain ⟨ha, hb⟩ := fitsField_and_iff.mp hfits
    exact ⟨_, _, exec_status (by omega) (by omega) s, rfl, rfl, rfl⟩

/-! ## Instances -/

/-- Among several instances, the step of one is its own step with the result in its place (60_exceptions.md R171). -/
theorem stepInstance_next_iff {n : Nat} {k : Fin n} {blocks after : Instances n} :
    stepInstance k blocks = .next after ↔ ∃ s, step (blocks.get k) = .next s ∧ blocks.set k s = after := by
  unfold stepInstance
  cases step (blocks.get k) <;> simp

/-- A write in one place leaves every other place as it was (60_exceptions.md R171). -/
theorem get_set_of_ne {n : Nat} {j k : Fin n} (hne : j ≠ k) (blocks : Instances n) (s : State) :
    (blocks.set j s).get k = blocks.get k :=
  Vector.getElem_set_ne j.isLt k.isLt (Fin.val_ne_of_ne hne)

/-- Settles O50: each of the two finds its own state untouched by the other's step, and writes in different places
commute. -/
theorem instancesAreIndependent : Obligations.InstancesAreIndependent := by
  intro n j k blocks afterJ afterK hne hj hk
  obtain ⟨sj, hstepJ, rfl⟩ := stepInstance_next_iff.mp hj
  obtain ⟨sk, hstepK, rfl⟩ := stepInstance_next_iff.mp hk
  have hkeepK : (blocks.set j sj).get k = blocks.get k := get_set_of_ne hne blocks sj
  have hkeepJ : (blocks.set k sk).get j = blocks.get j := get_set_of_ne hne.symm blocks sk
  refine ⟨hkeepK, (blocks.set j sj).set k sk, ?_, ?_⟩
  · exact stepInstance_next_iff.mpr ⟨sk, hkeepK ▸ hstepK, rfl⟩
  · refine stepInstance_next_iff.mpr ⟨sj, hkeepJ ▸ hstepJ, ?_⟩
    exact Vector.set_comm sk sj (Fin.val_ne_of_ne hne.symm)

end Sys2Proof.Proofs
end

section
/-! Proofs for the statements of 70_reset_and_hazards.md: what an asserted reset clears (R180, R181), that a part of a
block cannot be read (R187) and a complete one is not overwritten (R188), and what the host's third duty ensures
(R186). -/
namespace Sys2Proof.Proofs
open Sys2Proof.Machine Sys2Proof.Statements Sys2Proof.Safety

/-! ## Reset -/

/-- Settles O10: the step gives the state of reset with the later inputs, whose CURSOR is 0. -/
theorem assertedResetClearsTheBlock : Obligations.AssertedResetClearsTheBlock := fun _ _ hport =>
  ⟨_, step_of_port_reset hport, hostReset_cursor _, hostReset_flt _, capValue_of_cursor_zero (hostReset_cursor _),
    hostReset_response _, hostReset_port _⟩

/-! ## A complete block -/

/-- At CURSOR 17 the response of RD_DECODE is the block's, packed from CAP (41_result_decoder.md R122). -/
theorem responseOf_exec_rdDecode_of_full {s : State} (hcursor : s.cursor.toNat = 17) :
    responseOf (exec (.rdDecode 0 0) s) = some (decodeResponse s.cap) := by
  rw [exec_rdDecode_of_full rfl rfl hcursor]
  rfl

/-- Settles O36: the push takes the fault, and that keeps CURSOR and CAP, all that RD_DECODE reads. -/
theorem overrunProtectsTheBlock : Obligations.OverrunProtectsTheBlock := by
  intro s a ha hcursor
  obtain ⟨-, -, -, hoverrun⟩ := rdPushResult s a 0
  have hcursor' : (afterFault 0x04 s).cursor.toNat = 17 := hcursor
  refine ⟨_, hoverrun ha rfl hcursor, rfl, ?_⟩
  rw [responseOf_exec_rdDecode_of_full hcursor', responseOf_exec_rdDecode_of_full hcursor]
  rfl

/-! ## A block that is not complete -/

/-- With room at CURSOR a push responds with the new CURSOR, whatever CAP holds (41_result_decoder.md R121). -/
theorem responseOf_execRdPush_of_room (a b : Word) {s s' : State} (hcursor : s'.cursor = s.cursor)
    (hroom : s.cursor.toNat < 17) : responseOf (execRdPush a b s) = responseOf (execRdPush a b s') := by
  have hwrites (c : Cap) : ∃ cap, c.memWrite s.cursor.toNat (BitVec.ofNat 8 (field a 7 0)) = some cap :=
    Option.isSome_iff_exists.mp ((memWrite_isSome_iff _ _ c).mpr hroom)
  obtain ⟨cap, hwrite⟩ := hwrites s.cap
  obtain ⟨cap', hwrite'⟩ := hwrites s'.cap
  rw [execRdPush, execRdPush, hcursor, hwrite, hwrite']
  exact responseOf_guardOperands_congr _ (responseOf_ite_congr rfl rfl)

/-- Away from CURSOR 17 RD_DECODE responds with a fault, so whatever CAP holds (41_result_decoder.md R122). -/
theorem responseOf_execRdDecode_of_not_full (a b : Word) {s s' : State} (hcursor : s'.cursor = s.cursor)
    (hnotFull : s.cursor.toNat ≠ resultBlockLen) :
    responseOf (execRdDecode a b s) = responseOf (execRdDecode a b s') := by
  rw [execRdDecode, execRdDecode, hcursor, if_neg hnotFull, if_neg hnotFull]
  exact responseOf_guardOperands_congr _ rfl

/-- Below CURSOR 17 every instruction responds alike with any other contents of CAP (70_reset_and_hazards.md R187). -/
theorem responseOf_exec_with_cap (i : Instr) {s : State} (cap' : Cap) (hroom : s.cursor.toNat < 17) :
    responseOf (exec i s) = responseOf (exec i { s with cap := cap' }) := by
  cases i with
  | macroPeriod a b => exact responseOf_guardOperands_congr _ (responseOf_ite_congr rfl rfl)
  | mclkToUs a b => rfl
  | usToMclk a b => exact responseOf_ite_congr rfl rfl
  | encTimeout a b | decTimeout a b | rdStart a b | rdMapStatus a b | rdGain a b | status a b =>
    exact responseOf_guardOperands_congr _ rfl
  | rdPush a b => exact responseOf_execRdPush_of_room a b rfl hroom
  | rdDecode a b => exact responseOf_execRdDecode_of_not_full a b rfl hroom.ne

/-- Settles O35: a command is its instruction, or the fault of a reserved opcode. -/
theorem partialBlockIsInvisible : Obligations.PartialBlockIsInvisible := by
  intro s cap' c hroom
  cases hdecode : decode c with
  | ok i =>
    rw [runCommand_of_decode hdecode, runCommand_of_decode hdecode]
    exact responseOf_exec_with_cap i cap' hroom
  | error e =>
    rw [runCommand_of_reserved hdecode, runCommand_of_reserved hdecode]
    rfl

/-! ## The host's third duty -/

/-- The exact macro period of a nonzero 16-bit frequency is not 0 (40_timing_converter.md R101). -/
theorem macroPeriodExact_pos (vcsel : Nat) {fosc : Nat} (hpos : 0 < fosc) (hlt : fosc < 65536) :
    0 < macroPeriodExact vcsel fosc := by
  have hpll : 2 ^ 14 ≤ 2 ^ 30 / fosc := (Nat.le_div_iff_mul_le hpos).mpr (by omega)
  have hshifted : 64 ≤ 2 ^ 30 / fosc * 2304 / 64 := by omega
  rw [macroPeriodExact_eq]
  exact Nat.div_pos (hshifted.trans (Nat.le_mul_of_pos_right _ (by omega))) (by decide)

/-- The response of a fault has a nonzero code (60_exceptions.md R162). -/
theorem code_ne_zero_of_raiseFault {f : FaultCause} {s t : State} {r : Response} (hfault : raiseFault f s = .next t)
    (hresponse : t.response = some r) : r.code ≠ 0x00 := by
  obtain ⟨-, -, -, -, hfaultResponse⟩ := raiseFault_next hfault
  cases hfaultResponse.symm.trans hresponse
  exact f.code_ne_zero

/-- A MACRO_PERIOD that succeeds responds with a positive exact period, narrowed (40_timing_converter.md R101). -/
theorem macroPeriod_response_of_success {vcsel fosc : Word} {s t : State} {r : Response}
    (hexec : exec (.macroPeriod vcsel fosc) s = .next t) (hresponse : t.response = some r) (hcode : r.code = 0x00) :
    ∃ n, 0 < n ∧ r.ovf = overflows32 n ∧ r.y0 = trunc32 n := by
  rcases guardOperands_next hexec with ⟨-, hchecked⟩ | ⟨-, hfault⟩
  · split at hchecked
    case isTrue => exact absurd hcode (code_ne_zero_of_raiseFault hchecked hresponse)
    case isFalse hne =>
      have hlt : field fosc 15 0 < 65536 := field_eq_mod fosc 15 ▸ Nat.mod_lt _ (by decide)
      cases replyNarrowed_next hchecked
      cases hresponse
      exact ⟨_, macroPeriodExact_pos _ (Nat.pos_of_ne_zero hne) hlt, rfl, rfl⟩
  · exact absurd hcode (code_ne_zero_of_raiseFault hfault hresponse)

/-- A positive result that does not overflow is not narrowed to 0 (40_timing_converter.md R100). -/
theorem trunc32_ne_zero {n : Nat} (hpos : 0 < n) (hfits : overflows32 n = false) : trunc32 n ≠ 0 := by
  have hlt : n < 2 ^ 32 := not_le.mp (of_decide_eq_false hfits)
  intro hzero
  have hnum : n % 2 ^ 32 = 0 := congrArg BitVec.toNat hzero
  omega

/-- Where the block answers, what a MACRO_PERIOD returned with OVF = 0 is no zero divisor (70_reset_and_hazards.md
R186). -/
theorem ne_zero_of_returnedMacroPeriod {earlier : List Exchange} {mp : Word}
    (hreturned : ReturnedMacroPeriod earlier mp) (hanswered : AnsweredByBlock earlier) : mp ≠ 0 := by
  obtain ⟨⟨⟨cmd, vcsel, fosc⟩, r⟩, hy, ⟨hcmd, hcode⟩, hovf, rfl⟩ := hreturned
  obtain rfl : cmd = 0x01 := hcmd
  obtain ⟨s, t, hrun, hresponse⟩ := hanswered _ hy
  obtain ⟨n, hpos, hovfEq, hy0⟩ :=
    macroPeriod_response_of_success (vcsel := vcsel) (fosc := fosc) hrun hresponse hcode
  exact hy0 ▸ trunc32_ne_zero hpos (hovfEq ▸ hovf)

/-- A US_TO_MCLK with a nonzero divisor succeeds (40_timing_converter.md R104). -/
theorem usToMclk_code_of_ne_zero {c : Command} {s t : State} {r : Response} (hcmd : c.cmd = 0x03) (hmp : c.b ≠ 0)
    (hrun : runCommand c s = .next t) (hresponse : t.response = some r) : r.code = 0x00 := by
  obtain ⟨cmd, us, mp⟩ := c
  obtain rfl : cmd = 0x03 := hcmd
  have hne : mp.toNat ≠ 0 := fun hzero => hmp (BitVec.eq_of_toNat_eq hzero)
  cases replyNarrowed_next ((exec_usToMclk us hne s).symm.trans hrun)
  cases hresponse
  rfl

/-- Settles O24: the divisor was returned by an earlier exchange of the session, so it is not 0. -/
theorem dutifulConversionsNeverDivideByZero : Obligations.DutifulConversionsNeverDivideByZero := by
  intro session hanswered hduty x hx hcmd
  obtain ⟨s, t, hrun, hresponse⟩ := hanswered x hx
  obtain ⟨pre, post, rfl⟩ := List.append_of_mem hx
  have hearlier : AnsweredByBlock pre := fun y hy => hanswered y (List.mem_append_left _ hy)
  have hmp : x.command.b ≠ 0 := ne_zero_of_returnedMacroPeriod (hduty pre x post rfl (.inr hcmd)) hearlier
  exact usToMclk_code_of_ne_zero hcmd hmp hrun hresponse

end Sys2Proof.Proofs
end
